-- ==== Sys2Proof/Word.lean ====
section
/-! DEFINITION. The word types of the SAU (00_scope.md rules R8, R9, R10): widths fixed by the spec. -/

namespace Sys2Proof

/-- Eight bits: a byte of buffer memory or of a frame. -/
abbrev Byte := BitVec 8

/-- The handle of an instance, or of a consumer (D2, D18). -/
abbrev Handle := BitVec 8

/-- The id of a digital pin or of a shared serial bus (rule R22). -/
abbrev PinId := BitVec 8

/-- A value of the tick counter, a duration or an interval (D3). -/
abbrev Tick := BitVec 32

/-- The raw value of one conversion (RAW_W of rule R8). -/
abbrev Raw24 := BitVec 24

/-- A decoded count or a record word (CNT_W of rule R8, rule R103). -/
abbrev Word32 := BitVec 32

/-- One host command word (rule R90). -/
abbrev Cmd64 := BitVec 64

/-- The three bytes of one register transfer, in order of receipt or of sending (XFER_BYTES of rule R8). -/
structure Bytes3 where
  b0 : Byte
  b1 : Byte
  b2 : Byte
  deriving DecidableEq, Repr, Inhabited

end Sys2Proof
end

