-- ==== Sys2Proof/Config.lean ====
section
/-! DEFINITION. What the spec leaves to the implementation or to the environment: the parameters of 00_scope.md rule R9,
the agents of rule R13, and the free values of rules R11 and R14 (opaque: nothing can be proved of their values). -/

namespace Sys2Proof

/-- The named parameters of rule R9, constant over a run. N_INST is the number of instance groups that State holds (rule R20).
DESIGN CHOICE (log 1): they stand in State as plain data; every statement about them holds for every value. -/
structure Params where
  tickHz : Nat
  budgetRegTicks : Nat
  budgetBbTicks : Nat
  tHighMinNs : Nat
  tLowMinNs : Nat
  capLog2 : Nat
  spiTx : Bytes3
  spiMode : Fin 4
  syncStages : Nat
  deriving DecidableEq, Repr

/-- The agents that can make the next move (rule R13), and power-on reset (rules R40, R340). -/
inductive Agent where
  | host
  | timer (h : Handle)
  | taskBegin
  | taskVisit (h : Handle)
  | taskEnd
  | powerOn
  deriving DecidableEq, Repr, Inhabited

/-- The k-th answer of `Now()` where State lists none (rules R14, R320; log 2). -/
opaque Config.freeTick : Nat → Tick

/-- The level of input `p` at the k-th pin read where State lists none (rules R14, R131; log 2). -/
opaque Config.freePin : PinId → Nat → Bool

/-- The bytes bus `b` returns in the k-th transfer where State lists none (rules R14, R141; log 2). -/
opaque Config.freeSpi : PinId → Nat → Bytes3

/-- The k-th agent to move where State lists none (rules R71, R234; U8; log 3). -/
opaque Config.freeAgent : Nat → Agent

/-- The word, if any, that the host presents at its k-th chance where the port is empty (rule R13; log 9). -/
opaque Config.freeCommand : Nat → Option Cmd64

end Sys2Proof
end

