-- ==== Sys2Proof/Syntax.lean ====
section
/-! DEFINITION. The operations of the block (00_scope.md rule R2), one constructor per row of spec/opcode_table.json, and the
named operand values they carry. -/

namespace Sys2Proof

/-- The transfer strategy STRAT (rules R3, R22): code 0 REGISTER, code 1 BITBANG. -/
inductive Strategy where
  | register
  | bitbang
  deriving DecidableEq, Repr

/-- The severity policy POLICY (rules R3, R22): code 0 ALWAYS_RECOVERABLE, code 1 ESCALATE_ON_DESYNC. -/
inductive Policy where
  | alwaysRecoverable
  | escalateOnDesync
  deriving DecidableEq, Repr

/-- The recoverable conditions of rule R301 (E_NONE is the absence of one). -/
inductive ErrorCode where
  | transferTooLong
  | outOfRange
  | readyAfterRead
  deriving DecidableEq, Repr

/-- The fatal causes of rule R302. -/
inductive FatalCause where
  | configSelector
  | allOnes
  | outOfRange
  | readyAfterRead
  deriving DecidableEq, Repr

/-- The operations of the block. The first four are the host commands (rule R91), then the host-bound output, the events
and the sub-operations, in the table's order. -/
inductive Instr where
  | configure (h : Handle) (strat : Strategy) (policy : Policy) (gainsel : BitVec 3) (pinA pinB : PinId)
  | attachConsumer (h consumer : Handle)
  | startStop (h : Handle) (rest : Tick)
  | statusQuery (h : Handle)
  | sampleReport (h : Handle)
  | timerFire (h : Handle)
  | taskBegin
  | taskVisit (h : Handle)
  | taskEnd
  | service (h : Handle)
  | timerArm (h : Handle)
  | timerCancel (h : Handle)
  | readyPoll (h : Handle)
  | xferReg (h : Handle)
  | xferBb (h : Handle)
  | bbPulse (h : Handle) (sample first : Bool)
  | tooLong (h : Handle)
  | decode24 (r : Raw24)
  | encodeRec (w : Word32)
  | classify (h : Handle)
  | emitError (h : Handle) (code : ErrorCode)
  | bufReset (h : Handle)
  | bufAppend (h : Handle) (w : Word32)
  | bufFlush (h : Handle)
  | fanoutDeliver (h : Handle)
  | fatalHalt (h : Handle) (cause : FatalCause)
  deriving DecidableEq, Repr

/-- The instance an operation names, if it names one. -/
def Instr.handle? : Instr → Option Handle
  | .configure h _ _ _ _ _ => some h
  | .attachConsumer h _ => some h
  | .startStop h _ => some h
  | .statusQuery h => some h
  | .sampleReport h => some h
  | .timerFire h => some h
  | .taskBegin => none
  | .taskVisit h => some h
  | .taskEnd => none
  | .service h => some h
  | .timerArm h => some h
  | .timerCancel h => some h
  | .readyPoll h => some h
  | .xferReg h => some h
  | .xferBb h => some h
  | .bbPulse h _ _ => some h
  | .tooLong h => some h
  | .decode24 _ => none
  | .encodeRec _ => none
  | .classify h => some h
  | .emitError h _ => some h
  | .bufReset h => some h
  | .bufAppend h _ => some h
  | .bufFlush h => some h
  | .fanoutDeliver h => some h
  | .fatalHalt h _ => some h

/-- The operation code OPC of a host command (rule R91); no other operation has one (rule R90). -/
def Instr.opcode? : Instr → Option Byte
  | .configure _ _ _ _ _ _ => some 0x01
  | .attachConsumer _ _ => some 0x02
  | .startStop _ _ => some 0x03
  | .statusQuery _ => some 0x04
  | .sampleReport _ => none
  | .timerFire _ => none
  | .taskBegin => none
  | .taskVisit _ => none
  | .taskEnd => none
  | .service _ => none
  | .timerArm _ => none
  | .timerCancel _ => none
  | .readyPoll _ => none
  | .xferReg _ => none
  | .xferBb _ => none
  | .bbPulse _ _ _ => none
  | .tooLong _ => none
  | .decode24 _ => none
  | .encodeRec _ => none
  | .classify _ => none
  | .emitError _ _ => none
  | .bufReset _ => none
  | .bufAppend _ _ => none
  | .bufFlush _ => none
  | .fanoutDeliver _ => none
  | .fatalHalt _ _ => none

/-- Pseudo-operation `start h, n` (rule R110); the notation asks for n > 0. -/
def Instr.start (h : Handle) (n : Tick) : Instr := .startStop h n

/-- Pseudo-operation `stop h` (rule R110). -/
def Instr.stop (h : Handle) : Instr := .startStop h 0

/-- Pseudo-operation `configure_a` (rule R110): variant A of rule R3. -/
def Instr.configureA (h : Handle) (ready bus : PinId) : Instr := .configure h .register .alwaysRecoverable 0 ready bus

/-- Pseudo-operation `configure_b` (rule R110): variant B of rule R3. -/
def Instr.configureB (h : Handle) (ready bus : PinId) : Instr := .configure h .register .escalateOnDesync 0 ready bus

/-- Pseudo-operation `configure_c` (rule R110): variant C of rule R3. -/
def Instr.configureC (h : Handle) (gain : BitVec 3) (dout sclk : PinId) : Instr :=
  .configure h .bitbang .alwaysRecoverable gain dout sclk

end Sys2Proof
end

