-- ==== Sys2Proof/WellFormed.lean ====
section
/-! DEFINITION. Which operations are well formed: the handle names an instance (30_encoding.md rule R97 c), and which of
them the CMD64 format can carry (rule R90). -/

namespace Sys2Proof

/-- The instance an operation names, if any, is one of the `nInst` that exist (R97 c, D2). -/
def Instr.handleInRange (nInst : Nat) (i : Instr) : Bool :=
  match i.handle? with
  | some h => h.toNat < nInst
  | none => true

/-- The operation has a CMD64 word (rule R90: only the four host commands do). -/
def Instr.hasWord (i : Instr) : Bool := i.opcode?.isSome

/-- The first pulse of a train is a data pulse (rule R142): no train holds a first pulse that is not sampled. -/
def Instr.pulseInTrain : Instr → Bool
  | .bbPulse _ sample first => sample || !first
  | _ => true

/-- Every check together. -/
def Instr.wellFormed (nInst : Nat) (i : Instr) : Bool := i.handleInRange nInst && i.pulseInTrain

end Sys2Proof
end

