-- ==== Sys2Proof/Decode.lean ====
section
/-! DEFINITION. Decoding of CMD64 command words, total on every word (30_encoding.md rules R91 to R95, R97), then the
encoder written from the same layouts. -/

namespace Sys2Proof

/-- Why a word is reserved (rule R97): (a) its operation code, (b) a must-be-zero bit that is set. -/
inductive DecodeError where
  | reservedOpcode (opc : Byte)
  | reservedBits (opc : Byte)
  deriving DecidableEq, Repr

/-- `w[hi:lo]` of rule R10 as a value of `n = hi - lo + 1` bits. -/
def bits (w : Cmd64) (lo n : Nat) : BitVec n := w.extractLsb' lo n

/-- The one-bit code of STRAT (rule R92). -/
def Strategy.ofBit (b : BitVec 1) : Strategy := if b = 0 then .register else .bitbang

/-- The one-bit code of STRAT (rule R92). -/
def Strategy.toBit : Strategy → BitVec 1
  | .register => 0
  | .bitbang => 1

/-- The one-bit code of POLICY (rule R92). -/
def Policy.ofBit (b : BitVec 1) : Policy := if b = 0 then .alwaysRecoverable else .escalateOnDesync

/-- The one-bit code of POLICY (rule R92). -/
def Policy.toBit : Policy → BitVec 1
  | .alwaysRecoverable => 0
  | .escalateOnDesync => 1

/-- CONFIGURE's operand field (rule R92). -/
def decodeConfigure (w : Cmd64) : Except DecodeError Instr :=
  if bits w 40 3 = 0 ∧ bits w 0 24 = 0 then
    .ok (.configure (bits w 48 8) (.ofBit (bits w 47 1)) (.ofBit (bits w 46 1)) (bits w 43 3) (bits w 32 8) (bits w 24 8))
  else .error (.reservedBits 0x01)

/-- ATTACH_CONSUMER's operand field (rule R93). -/
def decodeAttach (w : Cmd64) : Except DecodeError Instr :=
  if bits w 0 40 = 0 then .ok (.attachConsumer (bits w 48 8) (bits w 40 8))
  else .error (.reservedBits 0x02)

/-- START_STOP's operand field (rule R94). -/
def decodeStartStop (w : Cmd64) : Except DecodeError Instr :=
  if bits w 0 16 = 0 then .ok (.startStop (bits w 48 8) (bits w 16 32))
  else .error (.reservedBits 0x03)

/-- STATUS_QUERY's operand field (rule R95). -/
def decodeStatus (w : Cmd64) : Except DecodeError Instr :=
  if bits w 0 48 = 0 then .ok (.statusQuery (bits w 48 8))
  else .error (.reservedBits 0x04)

/-- The command a word stands for, or the reason why it is reserved (rules R91, R97). -/
def decode (w : Cmd64) : Except DecodeError Instr :=
  if bits w 56 8 = 0x01 then decodeConfigure w
  else if bits w 56 8 = 0x02 then decodeAttach w
  else if bits w 56 8 = 0x03 then decodeStartStop w
  else if bits w 56 8 = 0x04 then decodeStatus w
  else .error (.reservedOpcode (bits w 56 8))

/-- The word of a host command, field by field from the patterns of rules R92 to R95; no other operation has one (rule R90). -/
def encode : Instr → Option Cmd64
  | .configure h strat policy gainsel pinA pinB =>
    some (0x01#8 ++ h ++ strat.toBit ++ policy.toBit ++ gainsel ++ 0#3 ++ pinA ++ pinB ++ 0#24)
  | .attachConsumer h consumer => some (0x02#8 ++ h ++ consumer ++ 0#40)
  | .startStop h rest => some (0x03#8 ++ h ++ rest ++ 0#16)
  | .statusQuery h => some (0x04#8 ++ h ++ 0#48)
  | .sampleReport _ => none
  | .timerFire _ => none
  | .taskBegin => none
  | .taskVisit _ => none
  | .taskEnd => none
  | .service _ => none
  | .timerArm _ => none
  | .timerCancel _ => none
  | .readyPoll _ => none
  | .xferReg _ => none
  | .xferBb _ => none
  | .bbPulse _ _ _ => none
  | .tooLong _ => none
  | .decode24 _ => none
  | .encodeRec _ => none
  | .classify _ => none
  | .emitError _ _ => none
  | .bufReset _ => none
  | .bufAppend _ _ => none
  | .bufFlush _ => none
  | .fanoutDeliver _ => none
  | .fatalHalt _ _ => none

/-- The CMD64 word made of the low `nbits` bits of `w`, every bit above them 0 (log 17: one 64-bit word, no byte order). -/
def tableWord (nbits w : Nat) : Cmd64 := BitVec.ofNat 64 (w % 2 ^ nbits)

/-- The instruction the decoder reads from a table row's bits, none where it refuses. -/
def decodeTableWord (nbits w : Nat) : Option Instr :=
  match decode (tableWord nbits w) with
  | .ok i => some i
  | .error _ => none

end Sys2Proof
end

