-- ==== Sys2Proof/Machine/State.lean ====
section
/-! DEFINITION. The state of the SAU (10_state.md rules R20 to R27), the environment it runs in (00_scope.md rules R11, R14),
the reasons a step can stop, and the state after power-on reset (rule R40). -/

namespace Sys2Proof.Machine

/-- The buffer memory of one instance (rule R60): written bytes by offset, offsets strictly rising. An unlisted offset holds
no value (rule R25: unspecified; log 5). -/
abbrev Memory := List Host.Cell

/-- What the shared task is doing (rule R21): between passes, or in a pass with the instances of `S` still to visit. -/
inductive Task where
  | idle
  | pass (S : List Handle)
  deriving DecidableEq, Repr

/-- The view STATE(h) of rule R30. -/
inductive Phase where
  | stopped
  | armed
  | servicing
  deriving DecidableEq, Repr

/-- The verdict of CLASSIFY (rule R210). -/
inductive Verdict where
  | sample
  | recoverable (code : ErrorCode)
  | fatal (cause : FatalCause)
  deriving DecidableEq, Repr

/-- The REPORT frame (rule R100). -/
structure Report where
  h : Handle
  err : Byte
  len : BitVec 16
  data : List Byte
  deriving DecidableEq, Repr

/-- The DELIVER frame (rule R101). -/
structure Deliver where
  consumer : Handle
  count : Word32
  ts : Tick
  deriving DecidableEq, Repr

/-- The STATUS_RESP frame (rule R102). -/
structure StatusResp where
  h : Handle
  ts : Tick
  window : Tick
  pendingBytes : Byte
  deriving DecidableEq, Repr

/-- What the block does at its boundary, one primitive of rule R11 each. -/
inductive Event where
  | now (t : Tick)
  | pinRead (p : PinId) (level : Bool)
  | pinWrite (p : PinId) (level : Bool)
  | waitAtLeast (ns : Nat)
  | spiXfer (bus : PinId) (mode : Fin 4) (tx rx : Bytes3)
  | irqMask
  | irqUnmask
  | report (f : Report)
  | deliver (f : Deliver)
  | statusResp (f : StatusResp)
  deriving DecidableEq, Repr

/-- The value an operation returns to its caller (the MODEL's own, log 11). -/
inductive Ret where
  | none
  | bit (b : Bool)
  | decoded (count : Word32) (oor : Bool)
  | bytes (bs : List Byte)
  | verdict (v : Verdict)
  deriving DecidableEq, Repr

/-- One instance group `I[h]` (rules R22 to R26). -/
structure Inst where
  /-- CONFIGURED (R22) -/
  configured : Bool
  /-- STRAT (R22) -/
  strat : Strategy
  /-- POLICY (R22) -/
  policy : Policy
  /-- GAINSEL (R22) -/
  gainsel : BitVec 3
  /-- PIN_A (R22) -/
  pinA : PinId
  /-- PIN_B (R22) -/
  pinB : PinId
  /-- ENDSTOP_VALID (R23) -/
  endstopValid : Bool
  /-- ENDSTOP_REF (R23) -/
  endstopRef : Handle
  /-- REST (R24) -/
  rest : Tick
  /-- PENDING (R24) -/
  pending : Bool
  /-- TMR_ARMED (R24) -/
  tmrArmed : Bool
  /-- TMR_WAKE (R24) -/
  tmrWake : Tick
  /-- BUF (R25, R60) -/
  buf : Memory
  /-- USED (R25), a count of bytes -/
  used : Nat
  /-- ERR (R25) -/
  err : Byte
  /-- ACC (R26) -/
  acc : Raw24
  /-- TSTART (R26) -/
  tstart : Tick
  /-- TDUR (R26) -/
  tdur : Tick
  /-- RAFTER (R26) -/
  rafter : Bool
  /-- COUNT (R26) -/
  count : Word32
  /-- OOR (R26) -/
  oor : Bool
  deriving DecidableEq, Repr

/-- What the environment answers (rules R11, R14): for each primitive the listed answers by number, and how many have been
drawn. Beyond the list the k-th answer is the free value of Config. The MODEL's own (DESIGN CHOICE, log 2). -/
structure Env where
  ticks : List Tick
  tickPos : Nat
  levels : List Bool
  levelPos : Nat
  spi : List Bytes3
  spiPos : Nat
  agentPos : Nat
  commandPos : Nat
  deriving DecidableEq, Repr

/-- The whole machine. -/
structure State where
  /-- the parameters of rule R9, which nothing writes (log 1) -/
  params : Params
  /-- the groups `I[0 .. N_INST-1]` (R20) -/
  insts : List Inst
  /-- G.WAKE (R21) -/
  wake : Bool
  /-- G.TASK (R21) -/
  task : Task
  /-- G.HALTED (R21) -/
  halted : Bool
  /-- G.HALT_CAUSE (R21) -/
  haltCause : Byte
  /-- G.HALT_H (R21) -/
  haltH : Handle
  /-- G.IRQ_MASKED (R21) -/
  irqMasked : Bool
  /-- the output pins the block drives and their levels, pin ids strictly rising; an unlisted pin is undriven (R340, R145) -/
  pins : List (Nat × Bool)
  /-- command words presented and not accepted, oldest first (R275; MODEL's own, log 9) -/
  port : List Cmd64
  /-- the agents to move next, oldest first; free when empty (R71, R234; MODEL's own, log 3) -/
  sched : List Agent
  /-- the environment's answers (MODEL's own, log 2) -/
  env : Env
  /-- what the block did at its boundary, oldest first (U14; MODEL's own, log 13) -/
  trace : List Event
  /-- the value the last operation run on its own returned (MODEL's own, log 11) -/
  ret : Ret
  deriving DecidableEq, Repr

/-- Why the machine stops. -/
inductive Fault where
  /-- Raised by every step but power-on reset once G.HALTED is 1, and by every operation then: no agent is enabled (R310, U11).
  Safe: the spec allows no transition. -/
  | halted
  /-- Raised by MemRead when `a + n > USED` (R61, U5). Safe: the spec asks for a fault. -/
  | memReadBounds
  /-- Raised by MemWrite when `a + n > CAP_BYTES` (R61, U5). Safe: the spec asks for a fault. -/
  | memWriteBounds
  /-- Raised by MemRead of a byte that nothing has written (R25, U4). Safe: the spec asks for a fault. -/
  | unwrittenByte
  /-- Raised by a flush when `USED < 4` (R192's requirement). Safe: the spec gives it no effect. -/
  | flushBelowRecord
  deriving DecidableEq, Repr

/-- Why an operation is not taken. -/
inductive Refusal where
  /-- Raised by exec's arm of an operation that has no meaning yet. Safe. -/
  | notModelled (mnemonic : String)
  /-- Raised by the step when the host presents a reserved word (R97 a, b; U1). Safe: the spec asks for a refusal. -/
  | reservedCommand (e : DecodeError)
  /-- Raised by an operation whose handle is not below N_INST (R97 c; U1). Safe: the spec asks for a refusal. -/
  | noSuchInstance
  /-- Raised by CONFIGURE of a configured handle (R275; U2). Safe: the spec asks for a refusal. -/
  | alreadyConfigured
  /-- Raised by another command to an unconfigured handle (R275; U2). Safe: the spec asks for a refusal. -/
  | notConfigured
  /-- Raised by ATTACH_CONSUMER to an instance that is not variant B (R271; U3). Safe: the spec asks for a refusal. -/
  | notVariantB
  /-- Raised by an event (R232 to R235, R274) whose enabling condition is false (log 20). Safe: such a step does not exist. -/
  | notEnabled
  /-- Raised by a sub-operation run on its own outside the operands its rule names (R140, R142, R230, R240; log 11). Safe: the spec
  gives no effect there. -/
  | outsideOperands
  deriving DecidableEq, Repr

/-- The outcome of an operation. -/
abbrev Result := Host.Outcome State Fault Refusal

/-- An instance group after power-on reset (rules R22 to R26, R40). Where the spec gives no value it is 0
(DESIGN CHOICE, log 4). -/
def Inst.reset : Inst where
  configured := false
  strat := .register
  policy := .alwaysRecoverable
  gainsel := 0
  pinA := 0
  pinB := 0
  endstopValid := false
  endstopRef := 0
  rest := 0
  pending := false
  tmrArmed := false
  tmrWake := 0
  buf := []
  used := 0
  err := 0
  acc := 0
  tstart := 0
  tdur := 0
  rafter := false
  count := 0
  oor := false

/-- No listed answers, nothing drawn. -/
def Env.reset : Env where
  ticks := []
  tickPos := 0
  levels := []
  levelPos := 0
  spi := []
  spiPos := 0
  agentPos := 0
  commandPos := 0

/-- The block with `n` instances and parameters `p` right after power-on reset (rule R40): nothing configured, nothing
halted, nothing pending, no timer armed, the task idle, interrupts unmasked, no pin driven (R340). -/
def State.powerOn (n : Nat) (p : Params) : State where
  params := p
  insts := List.replicate n Inst.reset
  wake := false
  task := .idle
  halted := false
  haltCause := 0
  haltH := 0
  irqMasked := false
  pins := []
  port := []
  sched := []
  env := .reset
  trace := []
  ret := .none

/-- The parameter values that 95_test_vectors.md uses, with the recommended SYNC_STAGES of D26 (DESIGN CHOICE, log 1). -/
def exampleParams : Params where
  tickHz := 16000000
  budgetRegTicks := 2400
  budgetBbTicks := 800
  tHighMinNs := 200
  tLowMinNs := 200
  capLog2 := 2
  spiTx := ⟨0, 0, 0⟩
  spiMode := 0
  syncStages := 2

/-- The machine right after reset, with the N_INST = 4 of 95_test_vectors.md (DESIGN CHOICE, log 1). -/
def State.reset : State := State.powerOn 4 exampleParams

end Sys2Proof.Machine
end

