-- ==== Sys2Proof/Machine/Codes.lean ====
section
/-! DEFINITION. The constants of 00_scope.md rule R8 and the numeric codes of 60_exceptions.md rules R301 and R302. -/

namespace Sys2Proof.Machine

/-- REC_BYTES (R8): bytes in one record. -/
def recBytes : Nat := 4

/-- DATA_PULSES (R8): data clock pulses in one bit-bang transfer. -/
def dataPulses : Nat := 24

/-- CNT_MIN (R8). -/
def cntMin : Int := -0x7FFFFF

/-- CNT_MAX (R8). -/
def cntMax : Int := 0x7FFFFF

/-- NEGZERO (R8): the raw value normalised to 0. -/
def negZero : Raw24 := 0x800000

/-- ALLONES (R8): the raw value that is fatal under ESCALATE_ON_DESYNC. -/
def allOnes : Raw24 := 0xFFFFFF

/-- SENTINEL (R8, R103): the word of an error record. -/
def sentinel : Word32 := 0x80000000

/-- PENDING_BYTES_PER_SAMPLE (R9, D21). -/
def pendingBytesPerSample : Byte := 4

/-- The selectors legal for a bit-bang instance: SEL_MIN to SEL_MAX (R8, R22). -/
def selectorLegal (g : BitVec 3) : Bool := 1 ≤ g.toNat && g.toNat ≤ 4

/-- The ERR byte of a recoverable condition (R301). -/
def errorByte : ErrorCode → Byte
  | .transferTooLong => 1
  | .outOfRange => 2
  | .readyAfterRead => 3

/-- The G.HALT_CAUSE value of a fatal cause (R302). -/
def causeByte : FatalCause → Byte
  | .configSelector => 1
  | .allOnes => 2
  | .outOfRange => 3
  | .readyAfterRead => 4

/-- CAP_SLOTS (R9). -/
def capSlots (p : Params) : Nat := 2 ^ p.capLog2

/-- CAP_BYTES (R9). -/
def capBytes (p : Params) : Nat := recBytes * capSlots p

/-- The constraints rule R9 puts on the parameters. -/
abbrev paramsWf (p : Params) : Prop :=
  0 < p.tickHz ∧ 1 ≤ p.budgetRegTicks ∧ 1 ≤ p.budgetBbTicks ∧ p.capLog2 ≤ 13

end Sys2Proof.Machine
end

