-- ==== Sys2Proof/Machine/Ops.lean ====
section
/-! DEFINITION. The named operations over registers, buffer memory, pins and the environment (00_scope.md rule R11), the entry
to the fatal halt (60_exceptions.md rule R310) and the way out of it (rules R40, R311). -/

namespace Sys2Proof.Machine

/-! ### Sparse data by address -/

/-- Read one key. -/
def assocGet {α : Type} : List (Nat × α) → Nat → Option α
  | [], _ => none
  | (k', v) :: rest, k => if k = k' then some v else assocGet rest k

/-- Write one key, keeping the keys strictly rising. -/
def assocSet {α : Type} : List (Nat × α) → Nat → α → List (Nat × α)
  | [], k, v => [(k, v)]
  | (k', v') :: rest, k, v =>
    if k < k' then (k, v) :: (k', v') :: rest
    else if k = k' then (k, v) :: rest
    else (k', v') :: assocSet rest k v

/-- The canonical form: keys strictly rising. -/
abbrev assocWf {α : Type} (m : List (Nat × α)) : Prop := m.Pairwise fun a b => a.1 < b.1

/-- The canonical form of a buffer memory. No entry can equal what an unlisted offset reads as, since that is no value. -/
abbrev Memory.wf (m : Memory) : Prop := assocWf m

/-- One byte of a buffer memory; an unlisted offset holds no value (R25; log 5). -/
def readByte (m : Memory) (a : Nat) : Option Byte := assocGet m a

/-- `n` bytes from offset `a` upward, if every one of them has been written. -/
def readBytes (m : Memory) (a : Nat) : Nat → Option (List Byte)
  | 0 => some []
  | n + 1 =>
    match readByte m a, readBytes m (a + 1) n with
    | some b, some bs => some (b :: bs)
    | _, _ => none

/-- Store bytes from offset `a` upward. -/
def writeBytes (m : Memory) (a : Nat) : List Byte → Memory
  | [] => m
  | b :: bs => writeBytes (assocSet m a b) (a + 1) bs

/-! ### Registers -/

/-- N_INST: the number of instance groups (R9, R20). -/
def State.nInst (s : State) : Nat := s.insts.length

/-- The group `I[h]`. Operations check that `h` is below N_INST before they rely on it. -/
def State.inst (s : State) (h : Handle) : Inst := s.insts.getD h.toNat Inst.reset

/-- Write fields of `I[h]`. -/
def State.modInst (s : State) (h : Handle) (f : Inst → Inst) : State :=
  { s with insts := s.insts.modify h.toNat f }

/-- The byte at offset `a` of the buffer space of `I[h]` (R60). -/
def State.byteAt (s : State) (h : Handle) (a : Nat) : Option Byte := readByte (s.inst h).buf a

/-- The handles of the configured instances, in rising order (R233). -/
def State.configuredHandles (s : State) : List Handle :=
  ((List.range s.nInst).map (BitVec.ofNat 8)).filter fun h => (s.inst h).configured

/-- Record what the block does at its boundary (log 13). -/
def State.log (s : State) (e : Event) : State := { s with trace := s.trace ++ [e] }

/-- Keep the value an operation returns (log 11). -/
def State.setRet (s : State) (r : Ret) : State := { s with ret := r }

/-- Drive an output pin to a level (R11, R145). -/
def State.setPin (s : State) (p : PinId) (level : Bool) : State := { s with pins := assocSet s.pins p.toNat level }

/-- The level an output pin is driven to, none while it is undriven (R340). -/
def State.pinLevel (s : State) (p : PinId) : Option Bool := assocGet s.pins p.toNat

/-- The accepted command word leaves the port (R275; log 9). -/
def State.takeCommand (s : State) : State := { s with port := s.port.tail }

/-! ### The environment (rules R11, R14): every answer is free, listed or not -/

/-- The k-th answer of `Now()`. -/
def State.tickAt (s : State) (k : Nat) : Tick := s.env.ticks.getD k (Config.freeTick k)

/-- The level that the k-th pin read, of input `p`, returns. -/
def State.levelAt (s : State) (p : PinId) (k : Nat) : Bool := s.env.levels.getD k (Config.freePin p k)

/-- The bytes that the k-th bus transfer, on bus `b`, returns. -/
def State.spiAt (s : State) (b : PinId) (k : Nat) : Bytes3 := s.env.spi.getD k (Config.freeSpi b k)

/-- The answer the next `Now()` gives. -/
def State.nextTick (s : State) : Tick := s.tickAt s.env.tickPos

/-- The level the next read of input `p` gives. -/
def State.nextLevel (s : State) (p : PinId) : Bool := s.levelAt p s.env.levelPos

/-- The bytes the next transfer on bus `b` gives. -/
def State.nextSpi (s : State) (b : PinId) : Bytes3 := s.spiAt b s.env.spiPos

/-- One answer of `Now()` is used up. -/
def State.useTick (s : State) : State := { s with env := { s.env with tickPos := s.env.tickPos + 1 } }

/-- One answer of a pin read is used up. -/
def State.useLevel (s : State) : State := { s with env := { s.env with levelPos := s.env.levelPos + 1 } }

/-- One answer of a bus transfer is used up. -/
def State.useSpi (s : State) : State := { s with env := { s.env with spiPos := s.env.spiPos + 1 } }

/-- The state after `Now()` (R320); the value read is `s.nextTick`. -/
def State.now (s : State) : State := s.useTick.log (.now s.nextTick)

/-- The state after `PinRead(p)` (R131); the level read is `s.nextLevel p`. -/
def State.pinRead (s : State) (p : PinId) : State := s.useLevel.log (.pinRead p (s.nextLevel p))

/-- `PinWrite(p, b)`. -/
def State.pinWrite (s : State) (p : PinId) (level : Bool) : State := (s.setPin p level).log (.pinWrite p level)

/-- `WaitAtLeast(ns)`: no clock is kept (D38), the wait is recorded. -/
def State.waitAtLeast (s : State) (ns : Nat) : State := s.log (.waitAtLeast ns)

/-- The state after `SpiXfer3(bus, SPI_TX)` (R141); the bytes received are `s.nextSpi bus`. -/
def State.spiXfer3 (s : State) (bus : PinId) : State :=
  s.useSpi.log (.spiXfer bus s.params.spiMode s.params.spiTx (s.nextSpi bus))

/-- `IrqMask()` (R72). -/
def State.irqMask (s : State) : State := { s with irqMasked := true }.log .irqMask

/-- `IrqUnmask()` (R72). -/
def State.irqUnmask (s : State) : State := { s with irqMasked := false }.log .irqUnmask

/-! ### Buffer memory (rule R61) -/

/-- `MemRead(h, a, n)`: requires `a + n <= USED`; a broken requirement or an unwritten byte faults (U4, U5). -/
def State.memRead (s : State) (h : Handle) (a n : Nat) : Except Fault (List Byte) :=
  if a + n ≤ (s.inst h).used then
    match readBytes (s.inst h).buf a n with
    | some bs => .ok bs
    | none => .error .unwrittenByte
  else .error .memReadBounds

/-- `MemWrite(h, a, n, v)` with `n` the length of `v`: requires `a + n <= CAP_BYTES`, else it faults (U5). -/
def State.memWrite (s : State) (h : Handle) (a : Nat) (v : List Byte) : Except Fault State :=
  if a + v.length ≤ capBytes s.params then .ok (s.modInst h fun i => { i with buf := writeBytes i.buf a v })
  else .error .memWriteBounds

/-! ### The fatal halt -/

/-- `raise Fatal(cause)` on behalf of handle `h` (R310): the cause and the handle are recorded and the block halts. Every
other field keeps its value. -/
def State.raiseFatal (s : State) (h : Handle) (cause : FatalCause) : State :=
  { s with haltCause := causeByte cause, haltH := h, halted := true }

/-- Power-on reset (R40, R311): every field of the block at its reset value. The parameters, the environment, the words the host
presents and the record of what happened stay (log 8). -/
def State.powerOnReset (s : State) : State :=
  { State.powerOn s.nInst s.params with port := s.port, sched := s.sched, env := s.env, trace := s.trace }

/-- A result from an operation that can fault. -/
def ofExcept : Except Fault State → Result
  | .ok s => .next s
  | .error f => .fault f

end Sys2Proof.Machine
end

