-- ==== Sys2Proof/Machine/Flags.lean ====
section
/-! DEFINITION. The flag computations and comparisons: REACHED (R321), the range check OOR (R170), TOO_LONG's budget test (R144),
the view STATE(h) (R30), the enabling conditions of the events (R232 to R235, R274). -/

namespace Sys2Proof.Machine

/-- REACHED(now, wake) (R321): the difference modulo 2^32 is below 2^31. -/
def reached (now wake : Tick) : Bool := (now - wake).toNat < 2 ^ 31

/-- The range comparator of R170 (R322 d): signed, against -0x7FFFFF and +0x7FFFFF. -/
def outOfRange (w : Word32) : Bool := w.toInt < cntMin || w.toInt > cntMax

/-- The budget that applies to an instance (R144). -/
def budgetTicks (p : Params) (i : Inst) : Nat :=
  match i.strat with
  | .register => p.budgetRegTicks
  | .bitbang => p.budgetBbTicks

/-- TOO_LONG of R144 on the fields of an instance: unsigned and inclusive. -/
def durationTooLong (p : Params) (i : Inst) : Bool := budgetTicks p i ≤ i.tdur.toNat

/-- STATE(h) of R30. -/
def Inst.phase (i : Inst) : Phase :=
  if i.rest = 0 then .stopped else if i.tmrArmed then .armed else .servicing

/-- Strict: POLICY = ESCALATE_ON_DESYNC (R12). -/
def Inst.strict (i : Inst) : Bool := i.policy = .escalateOnDesync

/-- Variant B of R3, the only one that may have a consumer (R271, D19). -/
def Inst.variantB (i : Inst) : Bool := i.strat = .register && i.policy = .escalateOnDesync

/-- The next record would not fit (R191). -/
def bufferFull (p : Params) (i : Inst) : Bool := i.used + recBytes > capBytes p

/-- TIMER_FIRE(h) is enabled (R232) when `Now()` answers `now`. -/
def timerFireEnabled (s : State) (h : Handle) (now : Tick) : Bool :=
  !s.halted && !s.irqMasked && (s.inst h).configured && (s.inst h).tmrArmed && reached now (s.inst h).tmrWake

/-- TASK_BEGIN is enabled (R233). No command is ever part-way through between steps (R70). -/
def taskBeginEnabled (s : State) : Bool := !s.halted && s.task = .idle && s.wake

/-- TASK_VISIT(h) is enabled (R234). -/
def taskVisitEnabled (s : State) (h : Handle) : Bool :=
  !s.halted &&
    match s.task with
    | .idle => false
    | .pass S => S.contains h

/-- TASK_END is enabled (R235). -/
def taskEndEnabled (s : State) : Bool := !s.halted && s.task = .pass []

/-- A SAMPLE_REPORT is due (R274): an append has found the buffer full, or EMIT_ERROR has appended its sentinel and set ERR. -/
def reportDue (p : Params) (i : Inst) : Bool := bufferFull p i || i.err ≠ 0

end Sys2Proof.Machine
end

