-- ==== Sys2Proof/Machine/Operands.lean ====
section
/-! DEFINITION. The operand forms: which instances an operation may name, the admission of a host command (R275), and the
operand values that are assembled from parts (R63, R92, R104, R105). -/

namespace Sys2Proof.Machine

/-- An operation of the unhalted block (R310: no step of any agent is enabled once HALTED is 1). -/
def running (s : State) (k : Result) : Result := if s.halted then .fault .halted else k

/-- An operation on an instance that exists (R97 c), configured or not: a register that nothing has written holds its reset value
(DESIGN CHOICE, log 4). -/
def onInst (s : State) (h : Handle) (k : Result) : Result :=
  running s (if h.toNat < s.nInst then k else .refused .noSuchInstance)

/-- An operation run inside its operands (log 11). -/
def within (p : Bool) (k : Result) : Result := if p then k else .refused .outsideOperands

/-- An event whose enabling condition holds (log 20). -/
def whenEnabled (p : Bool) (k : Result) : Result := if p then k else .refused .notEnabled

/-- Admission of a command (R275): refused where `bar` gives a reason, held at the port while the task is in a pass (nothing
changes), accepted otherwise; the accepted word leaves the port. -/
def admission (s : State) (h : Handle) (bar : Option Refusal) (run : State → Result) : Result :=
  onInst s h
    (match bar with
    | some r => .refused r
    | none => if s.task = .idle then run s.takeCommand else .next s)

/-- CONFIGURE is refused for a configured handle (R275, U2). -/
def barConfigured (i : Inst) : Option Refusal := if i.configured then some .alreadyConfigured else none

/-- The other commands are refused for an unconfigured handle (R275, U2). -/
def barUnconfigured (i : Inst) : Option Refusal := if i.configured then none else some .notConfigured

/-- ATTACH_CONSUMER is refused besides off variant B (R271, U3). -/
def barAttach (i : Inst) : Option Refusal :=
  if i.configured then (if i.variantB then none else some .notVariantB) else some .notConfigured

/-- The selector that CONFIGURE stores (R92, R270): 0 for REGISTER. -/
def storedSelector (strat : Strategy) (gainsel : BitVec 3) : BitVec 3 :=
  match strat with
  | .register => 0
  | .bitbang => gainsel

/-- A selector that CONFIGURE rejects by a fatal halt (R270). -/
def selectorIllegal (strat : Strategy) (gainsel : BitVec 3) : Bool := strat = .bitbang && !selectorLegal gainsel

/-- The raw value of three received bytes, first byte most significant (R63, R104). -/
def rawOfBytes (rx : Bytes3) : Raw24 := rx.b0 ++ rx.b1 ++ rx.b2

/-- One more sampled bit enters the accumulator at its least significant end (R105, R142). -/
def shiftIn (acc : Raw24) (b : Bool) : Raw24 := (acc <<< 1) ||| (BitVec.ofBool b).setWidth 24

end Sys2Proof.Machine
end

