-- ==== Sys2Proof/Machine/Decoder.lean ====
section
/-! DEFINITION. SampleDecoder (42_sample_decoder.md): DECODE24, ENCODE_REC, and the host's inverse of the record (R62). -/

namespace Sys2Proof.Machine

/-- The count of DECODE24(r) (R170). -/
def decodeCount (r : Raw24) : Word32 :=
  if r = negZero then 0
  else if r.getLsbD 23 then 0xFF000000 ||| r.setWidth 32
  else r.setWidth 32

/-- The out-of-range flag of DECODE24(r) (R170). -/
def decodeOor (r : Raw24) : Bool := outOfRange (decodeCount r)

/-- ENCODE_REC(w) (R172): little-endian (R62). -/
def encodeRec (w : Word32) : List Byte :=
  [w.extractLsb' 0 8, w.extractLsb' 8 8, w.extractLsb' 16 8, w.extractLsb' 24 8]

/-- The host's inverse (R62, R173): `{B3, B2, B1, B0}`. -/
def assembleRec (b0 b1 b2 b3 : Byte) : Word32 := b3 ++ b2 ++ b1 ++ b0

/-- DECODE24 run on its own (R170). -/
def execDecode24 (r : Raw24) (s : State) : Result :=
  running s (.next (s.setRet (.decoded (decodeCount r) (decodeOor r))))

/-- ENCODE_REC run on its own (R172). -/
def execEncodeRec (w : Word32) (s : State) : Result :=
  running s (.next (s.setRet (.bytes (encodeRec w))))

end Sys2Proof.Machine
end

