-- ==== Sys2Proof/Machine/Buffer.lean ====
section
/-! DEFINITION. SampleBuffer (43_sample_buffer.md): BUF_RESET, BUF_APPEND, BUF_FLUSH, and the SAMPLE_REPORT that a flush emits
(47_host_commands.md rule R274). -/

namespace Sys2Proof.Machine

/-- BUF_RESET(h) (R190): the bytes stay, nothing is reported. -/
def bufReset (s : State) (h : Handle) : State := s.modInst h fun i => { i with used := 0, err := 0 }

/-- The REPORT frame of `I[h]` with the given data (R100, R192). -/
def reportFrame (s : State) (h : Handle) (data : List Byte) : Report where
  h := h
  err := (s.inst h).err
  len := BitVec.ofNat 16 (s.inst h).used
  data := data

/-- The emission of a REPORT (R192, R274): all the bytes held; requires `USED >= 4`. -/
def emitReport (s : State) (h : Handle) : Except Fault State :=
  if (s.inst h).used < recBytes then .error .flushBelowRecord
  else (s.memRead h 0 (s.inst h).used).map fun data => s.log (.report (reportFrame s h data))

/-- BUF_FLUSH(h) (R192): the report, then `USED <- 0`; ERR stays. -/
def bufFlush (s : State) (h : Handle) : Except Fault State :=
  (emitReport s h).map fun t => t.modInst h fun i => { i with used := 0 }

/-- The write of a record at USED, once there is room (R191, R61). -/
def storeRec (s : State) (h : Handle) (w : Word32) : Except Fault State :=
  (s.memWrite h (s.inst h).used (encodeRec w)).map fun t => t.modInst h fun i => { i with used := i.used + recBytes }

/-- BUF_APPEND(h, w) (R191): a flush first when the record would not fit. -/
def bufAppend (s : State) (h : Handle) (w : Word32) : Except Fault State :=
  if bufferFull s.params (s.inst h) then (bufFlush s h).bind fun t => storeRec t h w
  else storeRec s h w

/-- SAMPLE_REPORT (R274): the frame alone, when one is due; the flush that asked for it empties the buffer (log 12). -/
def execSampleReport (h : Handle) (s : State) : Result :=
  onInst s h (whenEnabled (reportDue s.params (s.inst h)) (ofExcept (emitReport s h)))

/-- BUF_RESET run on its own (R190). -/
def execBufReset (h : Handle) (s : State) : Result := onInst s h (.next (bufReset s h))

/-- BUF_APPEND run on its own (R191): it stores any 32-bit word, although R191 names a count or SENTINEL only and R103 says that no
other word is ever written (DESIGN CHOICE, log 11). -/
def execBufAppend (h : Handle) (w : Word32) (s : State) : Result := onInst s h (ofExcept (bufAppend s h w))

/-- BUF_FLUSH run on its own (R192). -/
def execBufFlush (h : Handle) (s : State) : Result := onInst s h (ofExcept (bufFlush s h))

end Sys2Proof.Machine
end

