-- ==== Sys2Proof/Machine/Readiness.lean ====
section
/-! DEFINITION. ReadinessGate (40_readiness_gate.md): READY_POLL. -/

namespace Sys2Proof.Machine

/-- The answer of READY_POLL(h) (R130): 1 exactly when the pin is low. -/
def readyNow (s : State) (h : Handle) : Bool := !(s.nextLevel (s.inst h).pinA)

/-- The state after READY_POLL(h) (R130): one pin read, nothing else. -/
def readyPoll (s : State) (h : Handle) : State := s.pinRead (s.inst h).pinA

/-- READY_POLL run on its own (R130). The rule's operand is a configured instance; another polls the pin of its reset values
(DESIGN CHOICE, logs 4, 11). -/
def execReadyPoll (h : Handle) (s : State) : Result :=
  onInst s h (.next ((readyPoll s h).setRet (.bit (readyNow s h))))

end Sys2Proof.Machine
end

