-- ==== Sys2Proof/Machine/Transfer.lean ====
section
/-! DEFINITION. TransferEngine (41_transfer_engine.md): XFER_REG, XFER_BB, BB_PULSE, TOO_LONG. -/

namespace Sys2Proof.Machine

/-- `I[h].TSTART <- Now()`. -/
def captureStart (s : State) (h : Handle) : State := s.now.modInst h fun i => { i with tstart := s.nextTick }

/-- `I[h].TDUR <- tend - I[h].TSTART` with `tend` the next answer of `Now()` (R140, R142): modulo 2^32. -/
def captureDuration (s : State) (h : Handle) : State :=
  s.now.modInst h fun i => { i with tdur := s.nextTick - i.tstart }

/-- XFER_REG(h) (R140). -/
def xferReg (s : State) (h : Handle) : State :=
  let s1 := (captureStart s.irqMask h).irqUnmask
  let s2 := s1.spiXfer3 (s1.inst h).pinB
  (captureDuration s2 h).modInst h fun i =>
    { i with acc := rawOfBytes (s1.nextSpi (s1.inst h).pinB), rafter := false }

/-- BB_PULSE(h, sample, first) (R143), up to the end of the clock's high phase. -/
def pulseHigh (s : State) (h : Handle) (first : Bool) : State :=
  let s1 := if first then captureStart s.irqMask h else s.irqMask
  (s1.pinWrite (s.inst h).pinB true).waitAtLeast s.params.tHighMinNs

/-- BB_PULSE(h, sample, first) (R143), from the clock's falling edge. -/
def pulseLow (s : State) (h : Handle) : State :=
  ((s.pinWrite (s.inst h).pinB false).waitAtLeast s.params.tLowMinNs).irqUnmask

/-- The bit that BB_PULSE(h, sample, first) returns (R143): the line's level as is, 0 when it is not sampled. -/
def pulseBit (s : State) (h : Handle) (sample first : Bool) : Bool :=
  if sample then (pulseHigh s h first).nextLevel (s.inst h).pinA else false

/-- The state after BB_PULSE(h, sample, first) (R143). Irreducible for the elaborator only (the kernel evaluates it): proofs cite its
lemmas in Laws/Ops.lean. -/
@[irreducible] def bbPulse (s : State) (h : Handle) (sample first : Bool) : State :=
  let s1 := pulseHigh s h first
  pulseLow (if sample then s1.pinRead (s.inst h).pinA else s1) h

/-- `n` data pulses of XFER_BB (R142), the first of them the first of the train where `first` says so: the state after them. -/
def dataTrain (s : State) (h : Handle) (first : Bool) : Nat → State
  | 0 => s
  | n + 1 => dataTrain (bbPulse s h true first) h false n

/-- `n` data pulses of XFER_BB (R142): the accumulator after them. -/
def dataTrainAcc (s : State) (h : Handle) (first : Bool) (acc : Raw24) : Nat → Raw24
  | 0 => acc
  | n + 1 => dataTrainAcc (bbPulse s h true first) h false (shiftIn acc (pulseBit s h true first)) n

/-- `n` selector pulses of XFER_BB (R142). -/
def selectorTrain (s : State) (h : Handle) : Nat → State
  | 0 => s
  | n + 1 => selectorTrain (bbPulse s h false false) h n

/-- XFER_BB(h) (R142): 24 data pulses, GAINSEL selector pulses, the end tick, then the ready-after-read poll. -/
def xferBb (s : State) (h : Handle) : State :=
  let s1 := selectorTrain (dataTrain s h true dataPulses) h (s.inst h).gainsel.toNat
  let s2 := captureDuration s1 h
  (readyPoll s2 h).modInst h fun i =>
    { i with rafter := readyNow s2 h, acc := dataTrainAcc s h true 0 dataPulses }

/-- XFER_REG run on its own: the operand is a REGISTER instance (R140). The rule's operand is also configured; another runs
on its reset values (DESIGN CHOICE, logs 4, 11). -/
def execXferReg (h : Handle) (s : State) : Result :=
  onInst s h (within ((s.inst h).strat = .register) (.next (xferReg s h)))

/-- XFER_BB run on its own: the operand is a BITBANG instance with a selector of 1 to 4 (R142). The rule's operand is also configured;
another runs on what its registers hold (DESIGN CHOICE, logs 4, 11). -/
def execXferBb (h : Handle) (s : State) : Result :=
  onInst s h
    (within ((s.inst h).strat = .bitbang && selectorLegal (s.inst h).gainsel) (.next (xferBb s h)))

/-- BB_PULSE run on its own (R143), on a REGISTER or an unconfigured instance too (DESIGN CHOICE, log 11). -/
def execBbPulse (h : Handle) (sample first : Bool) (s : State) : Result :=
  onInst s h (.next ((bbPulse s h sample first).setRet (.bit (pulseBit s h sample first))))

/-- TOO_LONG run on its own (R144): a pure predicate on the state (DESIGN CHOICE where nothing has written TDUR or STRAT: log 4). -/
def execTooLong (h : Handle) (s : State) : Result :=
  onInst s h (.next (s.setRet (.bit (durationTooLong s.params (s.inst h)))))

end Sys2Proof.Machine
end

