-- ==== Sys2Proof/Machine/Classifier.lean ====
section
/-! DEFINITION. ErrorClassifier (44_error_classifier.md): CLASSIFY, EMIT_ERROR; and FATAL_HALT, the fatal severity of R300. -/

namespace Sys2Proof.Machine

/-- A condition that is fatal under the strict policy and recoverable otherwise (R210, R212). -/
def escalate (i : Inst) (cause : FatalCause) (code : ErrorCode) : Verdict :=
  if i.strict then .fatal cause else .recoverable code

/-- CLASSIFY reaches its step 4, the decode (R210): steps 1 to 3 gave no verdict. -/
def decodesNow (p : Params) (i : Inst) : Bool :=
  !(i.strat = .bitbang && i.rafter) && !durationTooLong p i && !(i.strict && i.acc = allOnes)

/-- The verdict of CLASSIFY on the fields of an instance (R210), in the order of R211. -/
def classifyVerdict (p : Params) (i : Inst) : Verdict :=
  if i.strat = .bitbang && i.rafter then escalate i .readyAfterRead .readyAfterRead
  else if durationTooLong p i then .recoverable .transferTooLong
  else if i.strict && i.acc = allOnes then .fatal .allOnes
  else if decodeOor i.acc then escalate i .outOfRange .outOfRange
  else .sample

/-- The state after CLASSIFY(h) (R210): COUNT and OOR are written when step 4 is reached. -/
def classify (s : State) (h : Handle) : State :=
  if decodesNow s.params (s.inst h) then
    s.modInst h fun i => { i with count := decodeCount i.acc, oor := decodeOor i.acc }
  else s

/-- EMIT_ERROR(h, code) (R214): the sentinel, the code, the report that carries both, the code cleared. -/
def emitError (s : State) (h : Handle) (code : ErrorCode) : Except Fault State :=
  (bufAppend s h sentinel).bind fun s1 =>
    (bufFlush (s1.modInst h fun i => { i with err := errorByte code }) h).map fun s2 =>
      s2.modInst h fun i => { i with err := 0 }

/-- CLASSIFY run on its own (R210), of the datapath registers as they stand (DESIGN CHOICE where no transfer has just ended:
logs 4, 11). -/
def execClassify (h : Handle) (s : State) : Result :=
  onInst s h (.next ((classify s h).setRet (.verdict (classifyVerdict s.params (s.inst h)))))

/-- EMIT_ERROR run on its own (R214). -/
def execEmitError (h : Handle) (code : ErrorCode) (s : State) : Result :=
  onInst s h (ofExcept (emitError s h code))

/-- FATAL_HALT: `raise Fatal(cause)` on behalf of `h` (R310), whether or not the condition that R302
names for the cause holds (DESIGN CHOICE, log 11). -/
def execFatalHalt (h : Handle) (cause : FatalCause) (s : State) : Result :=
  onInst s h (.next (s.raiseFatal h cause))

end Sys2Proof.Machine
end

