-- ==== Sys2Proof/Machine/Fanout.lean ====
section
/-! DEFINITION. EndstopFanout (46_endstop_fanout.md): FANOUT_DELIVER. -/

namespace Sys2Proof.Machine

/-- The DELIVER frame of an instance (R101, R260): the consumer, the count, the capture timestamp TSTART (D20). -/
def deliverFrame (i : Inst) : Deliver where
  consumer := i.endstopRef
  count := i.count
  ts := i.tstart

/-- FANOUT_DELIVER(h) (R260): a frame if a consumer is attached; no state of the block changes. -/
def fanoutDeliver (s : State) (h : Handle) : State :=
  if (s.inst h).endstopValid then s.log (.deliver (deliverFrame (s.inst h))) else s

/-- FANOUT_DELIVER run on its own (R260): where CLASSIFY has not just returned SAMPLE it delivers COUNT and TSTART as they stand
(DESIGN CHOICE, log 11). -/
def execFanoutDeliver (h : Handle) (s : State) : Result := onInst s h (.next (fanoutDeliver s h))

end Sys2Proof.Machine
end

