-- ==== Sys2Proof/Machine/Scheduler.lean ====
section
/-! DEFINITION. CycleScheduler (45_cycle_scheduler.md): TIMER_ARM, TIMER_CANCEL, TIMER_FIRE, TASK_BEGIN, TASK_VISIT, TASK_END,
SERVICE. -/

namespace Sys2Proof.Machine

/-- TIMER_ARM(h) (R230): the wake time is the tick read now plus REST, modulo 2^32. -/
def timerArm (s : State) (h : Handle) : State :=
  (s.irqMask.now.modInst h fun i => { i with tmrWake := s.nextTick + i.rest, tmrArmed := true }).irqUnmask

/-- TIMER_CANCEL(h) (R231). -/
def timerCancel (s : State) (h : Handle) : State :=
  (s.irqMask.modInst h fun i => { i with tmrArmed := false }).irqUnmask

/-- `IrqMask(); I[h].PENDING <- 0; IrqUnmask()` (R240, R272). -/
def clearPending (s : State) (h : Handle) : State :=
  (s.irqMask.modInst h fun i => { i with pending := false }).irqUnmask

/-- The three writes of TIMER_FIRE(h) (R232). -/
def timerFire (s : State) (h : Handle) : State :=
  { s.modInst h fun i => { i with tmrArmed := false, pending := true } with wake := true }

/-- TASK_BEGIN (R233): the wake is cleared in a masked window, then every configured instance is to be visited. -/
def taskBegin (s : State) : State :=
  let s1 := { s.irqMask with wake := false }.irqUnmask
  { s1 with task := .pass s1.configuredHandles }

/-- The transfer of SERVICE (R240): by the instance's strategy. -/
def transfer (s : State) (h : Handle) : State :=
  match (s.inst h).strat with
  | .register => xferReg s h
  | .bitbang => xferBb s h

/-- What SERVICE does with CLASSIFY's verdict (R240). -/
def actOn (s : State) (h : Handle) : Verdict → Except Fault State
  | .fatal cause => .ok (s.raiseFatal h cause)
  | .recoverable code => (emitError s h code).map fun t => timerArm t h
  | .sample => (bufAppend (fanoutDeliver s h) h (s.inst h).count).map fun t => timerArm t h

/-- SERVICE(h), one acquisition cycle (R240). -/
def service (s : State) (h : Handle) : Except Fault State :=
  let s1 := clearPending s h
  let s2 := readyPoll s1 h
  if readyNow s1 h then
    let s3 := transfer s2 h
    actOn (classify s3 h) h (classifyVerdict s3.params (s3.inst h))
  else .ok (timerArm s2 h)

/-- TASK_VISIT(h) takes `h` off the set of the pass (R234). -/
def leavePass (s : State) (h : Handle) : State :=
  match s.task with
  | .idle => s
  | .pass S => { s with task := .pass (S.filter fun k => k ≠ h) }

/-- TIMER_FIRE (R232): `Now()` is read for the comparison of its enabling condition; the comparison is the timer's own and
stands in no trace (log 13). -/
def execTimerFire (h : Handle) (s : State) : Result :=
  onInst s h (whenEnabled (timerFireEnabled s h s.nextTick) (.next (timerFire s.useTick h)))

/-- TASK_BEGIN (R233). -/
def execTaskBegin (s : State) : Result := running s (whenEnabled (taskBeginEnabled s) (.next (taskBegin s)))

/-- TASK_VISIT (R234): one acquisition cycle if PENDING is 1, else the instance is skipped. -/
def execTaskVisit (h : Handle) (s : State) : Result :=
  onInst s h
    (whenEnabled (taskVisitEnabled s h)
      (if (s.inst h).pending then ofExcept (service (leavePass s h) h) else .next (leavePass s h)))

/-- TASK_END (R235). -/
def execTaskEnd (s : State) : Result :=
  running s (whenEnabled (taskEndEnabled s) (.next { s with task := .idle }))

/-- SERVICE run on its own: the operand is an instance with PENDING = 1 (R240). -/
def execService (h : Handle) (s : State) : Result :=
  onInst s h (within (s.inst h).pending (ofExcept (service s h)))

/-- TIMER_ARM run on its own: the operand is an instance with REST != 0 (R230). -/
def execTimerArm (h : Handle) (s : State) : Result :=
  onInst s h (within ((s.inst h).rest ≠ 0) (.next (timerArm s h)))

/-- TIMER_CANCEL run on its own (R231). -/
def execTimerCancel (h : Handle) (s : State) : Result := onInst s h (.next (timerCancel s h))

end Sys2Proof.Machine
end

