-- ==== Sys2Proof/Machine/HostCommands.lean ====
section
/-! DEFINITION. The host commands (47_host_commands.md): CONFIGURE, ATTACH_CONSUMER, START_STOP, STATUS_QUERY. -/

namespace Sys2Proof.Machine

/-- The fields CONFIGURE gives an instance (R270, R40): the command's values, and every field of R23 to R25 at its reset value.
The bytes of the buffer and the datapath registers stay. -/
def configuredInst (strat : Strategy) (policy : Policy) (gainsel : BitVec 3) (pinA pinB : PinId) (i : Inst) : Inst :=
  { i with
    strat := strat
    policy := policy
    gainsel := storedSelector strat gainsel
    pinA := pinA
    pinB := pinB
    endstopValid := false
    rest := 0
    pending := false
    tmrArmed := false
    used := 0
    err := 0
    configured := true }

/-- CONFIGURE once the selector is legal (R270): a BITBANG instance's clock line is driven low (R145). -/
def configureWrites (s : State) (h : Handle) (strat : Strategy) (policy : Policy) (gainsel : BitVec 3)
    (pinA pinB : PinId) : State :=
  let s1 := s.modInst h (configuredInst strat policy gainsel pinA pinB)
  match strat with
  | .register => s1
  | .bitbang => s1.pinWrite pinB false

/-- CONFIGURE (R270): an illegal selector halts before any field is written. -/
def execConfigure (h : Handle) (strat : Strategy) (policy : Policy) (gainsel : BitVec 3) (pinA pinB : PinId)
    (s : State) : Result :=
  admission s h (barConfigured (s.inst h)) fun t =>
    if selectorIllegal strat gainsel then .next (t.raiseFatal h .configSelector)
    else .next (configureWrites t h strat policy gainsel pinA pinB)

/-- ATTACH_CONSUMER (R271). -/
def execAttachConsumer (h consumer : Handle) (s : State) : Result :=
  admission s h (barAttach (s.inst h)) fun t =>
    .next (t.modInst h fun i => { i with endstopRef := consumer, endstopValid := true })

/-- START_STOP up to the write of REST (R272). -/
def stopInst (s : State) (h : Handle) (n : Tick) : State :=
  (bufReset (clearPending (timerCancel s h) h) h).modInst h fun i => { i with rest := n }

/-- START_STOP (R272): stop from every state, then arm the timer unless REST is 0. -/
def startStop (s : State) (h : Handle) (n : Tick) : State :=
  if n = 0 then stopInst s h n else timerArm (stopInst s h n) h

/-- START_STOP (R272). -/
def execStartStop (h : Handle) (rest : Tick) (s : State) : Result :=
  admission s h (barUnconfigured (s.inst h)) fun t => .next (startStop t h rest)

/-- The state of STATUS_QUERY after its first tick read (R273). -/
def statusOpen (s : State) : State := s.irqMask.now

/-- The STATUS_RESP frame of STATUS_QUERY(h) (R102, R273). -/
def statusFrame (s : State) (h : Handle) : StatusResp :=
  let s1 := statusOpen s
  let s2 := readyPoll s1 h
  { h := h
    ts := s.nextTick
    window := s2.nextTick - s.nextTick
    pendingBytes := if readyNow s1 h then pendingBytesPerSample else 0 }

/-- STATUS_QUERY(h) (R273): two tick reads around a readiness read in one masked window; no field of the block changes. -/
def statusQuery (s : State) (h : Handle) : State :=
  (readyPoll (statusOpen s) h).now.irqUnmask.log (.statusResp (statusFrame s h))

/-- STATUS_QUERY (R273). -/
def execStatusQuery (h : Handle) (s : State) : Result :=
  admission s h (barUnconfigured (s.inst h)) fun t => .next (statusQuery t h)

end Sys2Proof.Machine
end

