-- ==== Sys2Proof/Machine/Dispatch.lean ====
section
/-! DEFINITION. One arm per operation of spec/opcode_table.json, each one call of its meaning. -/

namespace Sys2Proof.Machine

def exec (i : Instr) (s : State) : Host.Outcome State Fault Refusal :=
  match i with
  | .configure h strat policy gainsel pinA pinB => Sys2Proof.Machine.execConfigure h strat policy gainsel pinA pinB s
  | .attachConsumer h consumer => Sys2Proof.Machine.execAttachConsumer h consumer s
  | .startStop h rest => Sys2Proof.Machine.execStartStop h rest s
  | .statusQuery h => Sys2Proof.Machine.execStatusQuery h s
  | .sampleReport h => Sys2Proof.Machine.execSampleReport h s
  | .timerFire h => Sys2Proof.Machine.execTimerFire h s
  | .taskBegin => Sys2Proof.Machine.execTaskBegin s
  | .taskVisit h => Sys2Proof.Machine.execTaskVisit h s
  | .taskEnd => Sys2Proof.Machine.execTaskEnd s
  | .service h => Sys2Proof.Machine.execService h s
  | .timerArm h => Sys2Proof.Machine.execTimerArm h s
  | .timerCancel h => Sys2Proof.Machine.execTimerCancel h s
  | .readyPoll h => Sys2Proof.Machine.execReadyPoll h s
  | .xferReg h => Sys2Proof.Machine.execXferReg h s
  | .xferBb h => Sys2Proof.Machine.execXferBb h s
  | .bbPulse h sample first => Sys2Proof.Machine.execBbPulse h sample first s
  | .tooLong h => Sys2Proof.Machine.execTooLong h s
  | .decode24 r => Sys2Proof.Machine.execDecode24 r s
  | .encodeRec w => Sys2Proof.Machine.execEncodeRec w s
  | .classify h => Sys2Proof.Machine.execClassify h s
  | .emitError h code => Sys2Proof.Machine.execEmitError h code s
  | .bufReset h => Sys2Proof.Machine.execBufReset h s
  | .bufAppend h w => Sys2Proof.Machine.execBufAppend h w s
  | .bufFlush h => Sys2Proof.Machine.execBufFlush h s
  | .fanoutDeliver h => Sys2Proof.Machine.execFanoutDeliver h s
  | .fatalHalt h cause => Sys2Proof.Machine.execFatalHalt h cause s

end Sys2Proof.Machine
end

