-- ==== Sys2Proof/Machine/Schedule.lean ====
section
/-! DEFINITION. Who moves next and with which operation (00_scope.md rule R13, 20_memory.md rules R70 and R71): the choice of
the agent, the word the host presents, the enabling conditions. -/

namespace Sys2Proof.Machine

/-- What the agent whose turn it is does. -/
inductive Turn where
  | run (i : Instr)
  | wait
  | reserved (e : DecodeError)
  | powerOn
  deriving DecidableEq, Repr

/-- The agent whose turn it is: the first listed one, else a free choice (log 3). -/
def State.nextAgent (s : State) : Agent := s.sched.headD (Config.freeAgent s.env.agentPos)

/-- The turn is taken. -/
def State.useAgent (s : State) : State :=
  match s.sched with
  | [] => { s with env := { s.env with agentPos := s.env.agentPos + 1 } }
  | _ :: rest => { s with sched := rest }

/-- The host presents a word where the port is empty and it has one to give (log 9). -/
def State.present (s : State) : State :=
  match s.port with
  | [] => { s with port := (Config.freeCommand s.env.commandPos).toList, env := { s.env with commandPos := s.env.commandPos + 1 } }
  | _ :: _ => s

/-- The host's turn: the oldest presented word, decoded (R91, R97); no word, nothing to do. -/
def hostTurn (s : State) : Turn :=
  match s.present.port with
  | [] => .wait
  | w :: _ =>
    match decode w with
    | .ok i => .run i
    | .error e => .reserved e

/-- An agent's turn and the state it acts in. An agent whose event is not enabled waits (log 20); a timer that waits has still
compared one tick (R321). -/
def turnOf (s : State) : Agent → Turn × State
  | .host => (hostTurn s, s.present)
  | .timer h => if timerFireEnabled s h s.nextTick then (.run (.timerFire h), s) else (.wait, s.useTick)
  | .taskBegin => (if taskBeginEnabled s then .run .taskBegin else .wait, s)
  | .taskVisit h => (if taskVisitEnabled s h then .run (.taskVisit h) else .wait, s)
  | .taskEnd => (if taskEndEnabled s then .run .taskEnd else .wait, s)
  | .powerOn => (.powerOn, s)

/-- The turn the next step takes. -/
def nextTurn (s : State) : Turn × State := turnOf s.useAgent s.nextAgent

/-- Every step but power-on reset stops once the block is halted (R310, U11). -/
def haltedStop (s : State) (k : Result) : Result := if s.halted then .fault .halted else k

/-- A word at the head of the port and the host's turn next (log 16). -/
def presentWord (s : State) (w : Cmd64) : State := { s with port := w :: s.port, sched := .host :: s.sched }

end Sys2Proof.Machine
end

