-- ==== Sys2Proof/Machine/Step.lean ====
section
/-! DEFINITION. One step: the agent whose turn it is makes its move (00_scope.md rule R13). -/

namespace Sys2Proof.Machine

/-- One step of the block. Power-on reset is always possible (R311); anything else stops once the block is halted. -/
def step (s : State) : Host.Outcome State Fault Refusal :=
  match nextTurn s with
  | (.powerOn, t) => .next t.powerOnReset
  | (.run i, t) => haltedStop t (exec i t)
  | (.wait, t) => haltedStop t (.next t)
  | (.reserved e, t) => haltedStop t (.refused (.reservedCommand e))

/-- The state in which the next step runs the command whose word is `w`: the word stands at the head of the port and the host
has the next turn (log 16). -/
def State.withFetchWord (s : State) (nbits w : Nat) : State := presentWord s (tableWord nbits w)

end Sys2Proof.Machine
end

