-- ==== Sys2Proof/Machine/Frames.lean ====
section
/-! DEFINITION. The output frames as bits (30_encoding.md rules R100 to R102) and the halt outputs (R106). -/

namespace Sys2Proof.Machine

/-- REPORT as a byte sequence (R100): H, ERR, LEN[7:0], LEN[15:8], DATA. -/
def reportBytes (f : Report) : List Byte := [f.h, f.err, f.len.extractLsb' 0 8, f.len.extractLsb' 8 8] ++ f.data

/-- DELIVER as one 72-bit value (R101). -/
def deliverBits (f : Deliver) : BitVec 72 := f.consumer ++ f.count ++ f.ts

/-- STATUS_RESP as one 80-bit value (R102). -/
def statusBits (f : StatusResp) : BitVec 80 := f.h ++ f.ts ++ f.window ++ f.pendingBytes

/-- The REPORT frames among what the block did, oldest first. -/
def reportsOf (es : List Event) : List Report :=
  es.filterMap fun
    | .report f => some f
    | _ => none

/-- The level outputs that show the halt to the host (R106). -/
def haltOutputs (s : State) : Bool × Byte × Handle := (s.halted, s.haltCause, s.haltH)

end Sys2Proof.Machine
end

