-- ==== Sys2Proof/Safety.lean ====
section
/-! DEFINITION. What counts as a sound state (10_state.md rules R31 to R35 and the rules they rest on), and the frames that
statements use: which parts of two states agree. -/

namespace Sys2Proof.Machine

/-- A legal count (R8, R33). -/
def IsCount (w : Word32) : Prop := cntMin ≤ w.toInt ∧ w.toInt ≤ cntMax

/-- The bytes of records, oldest first (R62, R66). -/
def recordBytes (ws : List Word32) : List Byte := ws.flatMap encodeRec

/-- The buffer of an instance holds exactly the records `ws`, from offset 0 to USED (R32, R66). -/
def Holds (i : Inst) (ws : List Word32) : Prop :=
  i.used = recBytes * ws.length ∧ readBytes i.buf 0 i.used = some (recordBytes ws)

/-- The three alternatives of R31, which exclude one another. -/
def PhaseOk (i : Inst) : Prop :=
  (i.rest = 0 ∧ i.tmrArmed = false ∧ i.pending = false) ∨
  (i.rest ≠ 0 ∧ i.tmrArmed = true ∧ i.pending = false) ∨
  (i.rest ≠ 0 ∧ i.tmrArmed = false ∧ i.pending = true)

/-- A sound instance between operations. -/
structure InstOk (p : Params) (halted : Bool) (i : Inst) : Prop where
  /-- GAINSEL's legal values (R22) -/
  selector : i.configured = true →
    (i.strat = .bitbang ∧ selectorLegal i.gainsel = true) ∨ (i.strat = .register ∧ i.gainsel = 0)
  /-- only variant B has a consumer (R260 c, R271) -/
  consumer : i.endstopValid = true → i.configured = true ∧ i.variantB = true
  /-- nothing runs before CONFIGURE (R40, R41) -/
  fresh : i.configured = false → i.rest = 0 ∧ i.tmrArmed = false ∧ i.pending = false ∧ i.used = 0
  /-- R31 -/
  phase : halted = false → PhaseOk i
  /-- R34 -/
  errZero : i.err = 0
  /-- the canonical form of the buffer memory -/
  bufForm : Memory.wf i.buf
  /-- no byte beyond the buffer space (R60) -/
  bufInside : ∀ c ∈ i.buf, c.1 < capBytes p
  /-- R32 -/
  usedLe : i.used ≤ capBytes p
  /-- R32, R33: whole records, all of them counts, since a sentinel leaves with its report (R214) -/
  records : ∃ ws, Holds i ws ∧ ∀ w ∈ ws, IsCount w

/-- A sound REPORT frame: R100's lengths, R301's codes, and R214 c (the sentinel is the last record of a report with a code, and
stands in no other place); a report without a code is a full buffer (R191 b). -/
structure ReportOk (n : Nat) (p : Params) (r : Report) : Prop where
  handle : r.h.toNat < n
  length : r.data.length = r.len.toNat
  lower : recBytes ≤ r.len.toNat
  upper : r.len.toNat ≤ capBytes p
  content :
    (r.err = 0 ∧ r.len.toNat = capBytes p ∧ ∃ ws, r.data = recordBytes ws ∧ ∀ w ∈ ws, IsCount w) ∨
    ((∃ c, r.err = errorByte c) ∧ ∃ ws, r.data = recordBytes (ws ++ [sentinel]) ∧ ∀ w ∈ ws, IsCount w)

/-- The invariant of the block between operations. -/
structure Sound (s : State) : Prop where
  /-- the parameters meet R9 -/
  params : paramsWf s.params
  /-- 1 <= N_INST <= 256 (R9) -/
  count : 1 ≤ s.nInst ∧ s.nInst ≤ 256
  insts : ∀ h : Handle, h.toNat < s.nInst → InstOk s.params s.halted (s.inst h)
  /-- every masked window is released (R72) -/
  unmasked : s.irqMasked = false
  /-- the halt registers before a halt (R21) -/
  haltClear : s.halted = false → s.haltCause = 0 ∧ s.haltH = 0
  /-- the halt registers after one (R302, R310) -/
  haltSet : s.halted = true → (∃ c, s.haltCause = causeByte c) ∧ s.haltH.toNat < s.nInst
  /-- a pass visits configured instances, each once (R233, R234) -/
  pass : ∀ S, s.task = .pass S → S.Nodup ∧ ∀ h ∈ S, h.toNat < s.nInst ∧ (s.inst h).configured = true
  /-- no wake is lost (R73, R233) -/
  wake : ∀ h : Handle, h.toNat < s.nInst → (s.inst h).pending = true →
    s.wake = true ∨ ∃ S, s.task = .pass S ∧ h ∈ S
  /-- the canonical form of the driven pins -/
  pinsForm : assocWf s.pins
  /-- the clock line of a bit-bang instance idles low (R145) -/
  clockLow : ∀ h : Handle, h.toNat < s.nInst → (s.inst h).configured = true → (s.inst h).strat = .bitbang →
    s.pinLevel (s.inst h).pinB = some false
  /-- every report so far is sound -/
  reports : ∀ r ∈ reportsOf s.trace, ReportOk s.nInst s.params r

/-- Outside instance `h` nothing of these differs: every other instance, the parameters and the global fields, the port and the
schedule. (G.IRQ_MASKED, the pins, the trace, the environment's counters and the returned value are stated where they matter.) -/
structure SameOutside (h : Handle) (s t : State) : Prop where
  others : ∀ k, k ≠ h → t.inst k = s.inst k
  params : t.params = s.params
  nInst : t.nInst = s.nInst
  wake : t.wake = s.wake
  task : t.task = s.task
  halted : t.halted = s.halted
  haltCause : t.haltCause = s.haltCause
  haltH : t.haltH = s.haltH
  port : t.port = s.port
  sched : t.sched = s.sched

/-- No byte of any buffer differs. -/
def SameMemory (s t : State) : Prop := ∀ k a, t.byteAt k a = s.byteAt k a

/-- The configuration fields of two instances agree (R22). -/
def SameConfig (i j : Inst) : Prop :=
  j.configured = i.configured ∧ j.strat = i.strat ∧ j.policy = i.policy ∧ j.gainsel = i.gainsel ∧ j.pinA = i.pinA ∧
    j.pinB = i.pinB

/-- What a bit-bang train of `I[h]` does at the boundary (R105, R142, R143): 24 + GAINSEL masked windows, the first of which reads a
tick; pulse k (from 0) below 24 reads the data line, whose levels are the answers numbered from `pos`. -/
def bitBangTrain (s : State) (h : Handle) (pos : Nat) : List Event :=
  (List.range (24 + (s.inst h).gainsel.toNat)).flatMap fun k =>
    [.irqMask] ++ (if k = 0 then [.now s.nextTick] else []) ++
      [.pinWrite (s.inst h).pinB true, .waitAtLeast s.params.tHighMinNs] ++
      (if k < 24 then [.pinRead (s.inst h).pinA (s.levelAt (s.inst h).pinA (pos + k))] else []) ++
      [.pinWrite (s.inst h).pinB false, .waitAtLeast s.params.tLowMinNs, .irqUnmask]

/-- BUF_APPEND of each record in turn, up to the first that gives no next state. -/
def appendAll (h : Handle) : List Word32 → State → Result
  | [], s => .next s
  | w :: ws, s =>
    match exec (.bufAppend h w) s with
    | .next t => appendAll h ws t
    | .fault f => .fault f
    | .refused r => .refused r

/-- An instance whose fields have the reset values that R22 to R25 give (a field without one is not mentioned). -/
def Inst.AtPowerOn (i : Inst) : Prop :=
  i.configured = false ∧ i.endstopValid = false ∧ i.rest = 0 ∧ i.pending = false ∧ i.tmrArmed = false ∧ i.used = 0 ∧
    i.err = 0

/-- The block runs and `h` names an instance: the conditions every operation on `h` shares (R97 c, R310). -/
def Ready (s : State) (h : Handle) : Prop := s.halted = false ∧ h.toNat < s.nInst

/-- A command to `h` is admitted (R275) but for its condition on CONFIGURED. -/
def Admitted (s : State) (h : Handle) : Prop := Ready s h ∧ s.task = .idle

end Sys2Proof.Machine
end

