-- ==== Sys2Proof/Certificates/Slice0/Obligations.lean ====
section
/-! DEFINITION. The statements for the provers. "R<n>" is a rule of spec/; "log <n>" is notes/assumptions/<n>.md. What the block
does at its boundary is read in the state's `trace` (log 13), the value an operation returns in `ret` (log 11), the answers of the
environment as `nextTick`, `nextLevel`, `nextSpi` and what follows them (log 2): the MODEL's own fields. -/

open Sys2Proof Sys2Proof.Machine

/-! ### Encodings (30_encoding.md) -/

/-- R92 to R95: the word written for a command decodes to that command, whatever its operands. -/
def Obligations.DecodeOfEncode : Prop := ∀ (i : Instr) (w : Cmd64), encode i = some w → decode w = .ok i

/-- R91 to R95: a word that decodes is the word written for its command, so no accepted bit is dropped. -/
def Obligations.EncodeOfDecode : Prop := ∀ (w : Cmd64) (i : Instr), decode w = .ok i → encode i = some w

/-- R92 to R95, R97 (a), (b): the words accepted are those that match a row of the table under its mask. -/
def Obligations.DecodeAcceptsTableRows : Prop :=
  ∀ w : Cmd64, (∃ i, decode w = .ok i) ↔
    (w &&& 0xFF00070000FFFFFF = 0x0100000000000000 ∨ w &&& 0xFF0000FFFFFFFFFF = 0x0200000000000000 ∨
      w &&& 0xFF0000000000FFFF = 0x0300000000000000 ∨ w &&& 0xFF00FFFFFFFFFFFF = 0x0400000000000000)

/-- R91 to R95: every field at its place, written as sums of powers of two. -/
def Obligations.CommandFieldPlaces : Prop :=
  (∀ (h : Handle) (st po : BitVec 1) (g : BitVec 3) (a b : PinId),
    decode (BitVec.ofNat 64 (1 * 2 ^ 56 + h.toNat * 2 ^ 48 + st.toNat * 2 ^ 47 + po.toNat * 2 ^ 46 + g.toNat * 2 ^ 43 +
      a.toNat * 2 ^ 32 + b.toNat * 2 ^ 24)) =
      .ok (.configure h (if st = 1 then .bitbang else .register)
        (if po = 1 then .escalateOnDesync else .alwaysRecoverable) g a b)) ∧
  (∀ h c : Handle, decode (BitVec.ofNat 64 (2 * 2 ^ 56 + h.toNat * 2 ^ 48 + c.toNat * 2 ^ 40)) = .ok (.attachConsumer h c)) ∧
  (∀ (h : Handle) (r : Tick),
    decode (BitVec.ofNat 64 (3 * 2 ^ 56 + h.toNat * 2 ^ 48 + r.toNat * 2 ^ 16)) = .ok (.startStop h r)) ∧
  (∀ h : Handle, decode (BitVec.ofNat 64 (4 * 2 ^ 56 + h.toNat * 2 ^ 48)) = .ok (.statusQuery h))

/-- The examples of R92 to R95. -/
def Obligations.DecodeSpecWords : Prop :=
  decode 0x0102982021000000 = .ok (.configure 2 .bitbang .alwaysRecoverable 3 0x20 0x21) ∧
  decode 0x0201070000000000 = .ok (.attachConsumer 1 7) ∧
  decode 0x0300000003E80000 = .ok (.startStop 0 1000) ∧
  decode 0x0300000000000000 = .ok (.startStop 0 0) ∧
  decode 0x0400000000000000 = .ok (.statusQuery 0)

/-! ### The step (00_scope.md R13, 20_memory.md R70, R71) -/

/-- R275, R70: on the host's turn the word at the head of the port is decoded and its command runs. (The port's order and the
schedule are the MODEL's choice: logs 3, 9.) -/
def Obligations.StepRunsPresentedCommand : Prop :=
  ∀ (s : State) (w : Cmd64) (ws : List Cmd64) (rest : List Agent) (i : Instr),
    s.halted = false → s.sched = .host :: rest → s.port = w :: ws → decode w = .ok i →
    step s = exec i { s with sched := rest }

/-- R13, R232 to R235: on an event's turn the event runs where it is enabled. The turns and the passing of a turn whose event is not
enabled (a timer still compares one tick) are the MODEL's choice: logs 3, 20. -/
def Obligations.StepRunsEnabledEvent : Prop :=
  ∀ (s : State) (rest : List Agent), s.halted = false →
    (∀ h, s.sched = .timer h :: rest →
      step s =
        if s.irqMasked = false ∧ (s.inst h).configured = true ∧ (s.inst h).tmrArmed = true ∧
            (s.nextTick - (s.inst h).tmrWake).toNat < 2 ^ 31 then
          exec (.timerFire h) { s with sched := rest }
        else .next { s with sched := rest, env := { s.env with tickPos := s.env.tickPos + 1 } }) ∧
    (s.sched = .taskBegin :: rest →
      step s =
        if s.task = .idle ∧ s.wake = true then exec .taskBegin { s with sched := rest }
        else .next { s with sched := rest }) ∧
    (∀ h, s.sched = .taskVisit h :: rest →
      (∀ S, s.task = .pass S → h ∈ S → step s = exec (.taskVisit h) { s with sched := rest }) ∧
      ((∀ S, s.task = .pass S → h ∉ S) → step s = .next { s with sched := rest })) ∧
    (s.sched = .taskEnd :: rest →
      step s = if s.task = .pass [] then exec .taskEnd { s with sched := rest } else .next { s with sched := rest })

/-- The MODEL's choice (log 16): after withFetchWord the very next step runs the word's command. -/
def Obligations.FetchWordRunsNext : Prop :=
  ∀ (s : State) (w : Nat) (i : Instr), s.halted = false → decode (BitVec.ofNat 64 w) = .ok i →
    step (s.withFetchWord 64 w) = exec i { s with port := BitVec.ofNat 64 w :: s.port }

/-- U1 (R97 a, b): a reserved word is refused, and the refusal names the reason. -/
def Obligations.ReservedWordRefused : Prop :=
  ∀ (s : State) (w : Cmd64) (ws : List Cmd64) (rest : List Agent) (e : DecodeError),
    s.halted = false → s.sched = .host :: rest → s.port = w :: ws → decode w = .error e →
    step s = .refused (.reservedCommand e)

/-- R310, U11: once the block is halted, no operation completes. -/
def Obligations.HaltedBlocksEveryOperation : Prop := ∀ (i : Instr) (s : State), s.halted = true → exec i s = .fault .halted

/-- R311, R40, R340, and the MODEL's choice (log 7) that power-on reset is an agent's turn: no other agent leaves the halt, and from
every state, running or halted, power-on reset puts every field that has a reset value at that value. -/
def Obligations.HaltLeftOnlyByPowerOn : Prop :=
  ∀ s : State,
    (s.halted = true → s.nextAgent ≠ .powerOn → step s = .fault .halted) ∧
    (s.nextAgent = .powerOn →
      ∃ t, step s = .next t ∧ t.halted = false ∧ t.haltCause = 0 ∧ t.haltH = 0 ∧ t.wake = false ∧ t.task = .idle ∧
        t.irqMasked = false ∧ (∀ q, t.pinLevel q = none) ∧ t.params = s.params ∧ t.nInst = s.nInst ∧
        ∀ h : Handle, h.toNat < s.nInst → (t.inst h).AtPowerOn ∧ (t.inst h).phase = .stopped)

/-! ### Reset (10_state.md R40) -/

/-- R21 to R25, R40: the reset values that the spec gives, for any N_INST and any parameters. -/
def Obligations.PowerOnValues : Prop :=
  ∀ (n : Nat) (p : Params),
    (State.powerOn n p).wake = false ∧ (State.powerOn n p).task = .idle ∧ (State.powerOn n p).halted = false ∧
    (State.powerOn n p).haltCause = 0 ∧ (State.powerOn n p).haltH = 0 ∧ (State.powerOn n p).irqMasked = false ∧
    (∀ q, (State.powerOn n p).pinLevel q = none) ∧ (State.powerOn n p).params = p ∧ (State.powerOn n p).nInst = n ∧
    ∀ h : Handle, ((State.powerOn n p).inst h).AtPowerOn

/-! ### Host commands (47_host_commands.md) -/

/-- R270: CONFIGURE of an unconfigured handle. A legal selector (any selector for REGISTER): the fields are written, the instance is
stopped, a BITBANG clock line is driven low. An illegal one halts the block before any field of the instance is written, whatever
POLICY is. -/
def Obligations.ConfigureResult : Prop :=
  ∀ (s : State) (h : Handle) (st : Strategy) (po : Policy) (g : BitVec 3) (a b : PinId),
    Admitted s h → (s.inst h).configured = false →
    ((st = .register ∨ (1 ≤ g.toNat ∧ g.toNat ≤ 4)) →
      ∃ t, exec (.configure h st po g a b) s = .next t ∧
        t.inst h =
          { s.inst h with
            configured := true, strat := st, policy := po, gainsel := if st = .register then 0 else g, pinA := a, pinB := b,
            endstopValid := false, rest := 0, pending := false, tmrArmed := false, used := 0, err := 0 } ∧
        (t.inst h).phase = .stopped ∧ SameOutside h s.takeCommand t ∧ SameMemory s t ∧ t.irqMasked = s.irqMasked ∧
        (st = .register → t.pins = s.pins ∧ t.trace = s.trace) ∧
        (st = .bitbang → t.trace = s.trace ++ [.pinWrite b false] ∧
          ∀ q, t.pinLevel q = if q = b then some false else s.pinLevel q)) ∧
    (st = .bitbang → (g.toNat = 0 ∨ 5 ≤ g.toNat) →
      exec (.configure h st po g a b) s =
        .next { s with port := s.port.tail, haltCause := 1, haltH := h, halted := true })

/-- R271: ATTACH_CONSUMER to a configured instance: variant B stores the consumer, any other variant is refused (U3). -/
def Obligations.AttachBindsConsumer : Prop :=
  ∀ (s : State) (h c : Handle), Admitted s h → (s.inst h).configured = true →
    ((s.inst h).strat = .register ∧ (s.inst h).policy = .escalateOnDesync →
      ∃ t, exec (.attachConsumer h c) s = .next t ∧ t.inst h = { s.inst h with endstopRef := c, endstopValid := true } ∧
        SameOutside h s.takeCommand t ∧ SameMemory s t ∧ t.pins = s.pins ∧ t.irqMasked = s.irqMasked ∧ t.trace = s.trace) ∧
    (¬((s.inst h).strat = .register ∧ (s.inst h).policy = .escalateOnDesync) →
      exec (.attachConsumer h c) s = .refused .notVariantB)

/-- R272: START_STOP of a configured instance, from every state of it. n = 0 stops it; n > 0 starts or restarts it, the first wake
one interval after the tick read. -/
def Obligations.StartStopResult : Prop :=
  ∀ (s : State) (h : Handle) (n : Tick), Admitted s h → (s.inst h).configured = true →
    ∃ t, exec (.startStop h n) s = .next t ∧ SameOutside h s.takeCommand t ∧ SameMemory s t ∧ t.pins = s.pins ∧
      t.irqMasked = false ∧
      (n = 0 →
        t.inst h = { s.inst h with tmrArmed := false, pending := false, used := 0, err := 0, rest := 0 } ∧
        (t.inst h).phase = .stopped ∧ t.trace = s.trace ++ [.irqMask, .irqUnmask, .irqMask, .irqUnmask]) ∧
      (n ≠ 0 →
        t.inst h =
          { s.inst h with
            tmrArmed := true, tmrWake := s.nextTick + n, pending := false, used := 0, err := 0, rest := n } ∧
        (t.inst h).phase = .armed ∧
        t.trace = s.trace ++ [.irqMask, .irqUnmask, .irqMask, .irqUnmask, .irqMask, .now s.nextTick, .irqUnmask])

/-- R273, R102: STATUS_QUERY answers with two ticks and the readiness of the converter, and changes no field of the block. -/
def Obligations.StatusQueryAnswers : Prop :=
  ∀ (s : State) (h : Handle), Admitted s h → (s.inst h).configured = true →
    ∃ t, exec (.statusQuery h) s = .next t ∧ t.inst h = s.inst h ∧ SameOutside h s.takeCommand t ∧ SameMemory s t ∧
      t.pins = s.pins ∧ t.irqMasked = false ∧
      t.trace = s.trace ++
        [.irqMask, .now s.nextTick, .pinRead (s.inst h).pinA (s.nextLevel (s.inst h).pinA),
          .now (s.tickAt (s.env.tickPos + 1)), .irqUnmask,
          .statusResp
            { h := h
              ts := s.nextTick
              window := s.tickAt (s.env.tickPos + 1) - s.nextTick
              pendingBytes := if s.nextLevel (s.inst h).pinA = false then 4 else 0 }]

/-- R275: a command that meets every condition but the idle task waits at the port: nothing changes. (The port is the MODEL's own
field: log 9.) -/
def Obligations.CommandWaitsDuringPass : Prop :=
  ∀ (s : State) (h : Handle) (S : List Handle), Ready s h → s.task = .pass S →
    ((s.inst h).configured = false → ∀ st po g a b, exec (.configure h st po g a b) s = .next s) ∧
    ((s.inst h).configured = true →
      (∀ n, exec (.startStop h n) s = .next s) ∧ exec (.statusQuery h) s = .next s ∧
      ((s.inst h).strat = .register → (s.inst h).policy = .escalateOnDesync →
        ∀ c, exec (.attachConsumer h c) s = .next s))

/-- U1 (c), U2, U3 (R97, R271, R275): what the block refuses, whatever the task does. (That the first clause holds of events and
sub-operations too is the MODEL's choice: log 11.) -/
def Obligations.CommandsRefused : Prop :=
  ∀ (s : State) (h : Handle), s.halted = false →
    (s.nInst ≤ h.toNat → ∀ i, i.handle? = some h → exec i s = .refused .noSuchInstance) ∧
    (h.toNat < s.nInst → (s.inst h).configured = true →
      ∀ st po g a b, exec (.configure h st po g a b) s = .refused .alreadyConfigured) ∧
    (h.toNat < s.nInst → (s.inst h).configured = false →
      (∀ c, exec (.attachConsumer h c) s = .refused .notConfigured) ∧
      (∀ n, exec (.startStop h n) s = .refused .notConfigured) ∧ exec (.statusQuery h) s = .refused .notConfigured) ∧
    (h.toNat < s.nInst → (s.inst h).configured = true →
      ((s.inst h).strat = .bitbang ∨ (s.inst h).policy = .alwaysRecoverable) →
      ∀ c, exec (.attachConsumer h c) s = .refused .notVariantB)

/-- R272 ("Idempotence of stop"): a second stop leaves the instance as the first did, stopped, empty and unarmed. -/
def Obligations.StopIsIdempotent : Prop :=
  ∀ (s t : State) (h : Handle), s.task = .idle → exec (.startStop h 0) s = .next t →
    (t.inst h).phase = .stopped ∧ (t.inst h).used = 0 ∧ (t.inst h).tmrArmed = false ∧ (t.inst h).pending = false ∧
      ∃ u, exec (.startStop h 0) t = .next u ∧ (∀ k, u.inst k = t.inst k) ∧ SameMemory t u ∧ u.wake = t.wake ∧ u.task = t.task

/-! ### The readiness gate and the transfers (40_readiness_gate.md, 41_transfer_engine.md) -/

/-- R130: READY_POLL is one pin read, 1 exactly when the pin is low, and writes nothing (the mask included). -/
def Obligations.ReadyPollResult : Prop :=
  ∀ (s : State) (h : Handle), Ready s h → (s.inst h).configured = true →
    ∃ t, exec (.readyPoll h) s = .next t ∧
      t.ret = .bit (if s.nextLevel (s.inst h).pinA = false then true else false) ∧ t.inst h = s.inst h ∧ SameOutside h s t ∧
      SameMemory s t ∧ t.pins = s.pins ∧ t.irqMasked = s.irqMasked ∧
      t.trace = s.trace ++ [.pinRead (s.inst h).pinA (s.nextLevel (s.inst h).pinA)]

/-- R140, R104: XFER_REG on a configured REGISTER instance. -/
def Obligations.XferRegResult : Prop :=
  ∀ (s : State) (h : Handle), Ready s h → (s.inst h).configured = true → (s.inst h).strat = .register →
    ∃ t, exec (.xferReg h) s = .next t ∧
      t.inst h =
        { s.inst h with
          tstart := s.nextTick
          tdur := s.tickAt (s.env.tickPos + 1) - s.nextTick
          acc := (s.nextSpi (s.inst h).pinB).b0 ++ (s.nextSpi (s.inst h).pinB).b1 ++ (s.nextSpi (s.inst h).pinB).b2
          rafter := false } ∧
      SameOutside h s t ∧ SameMemory s t ∧ t.pins = s.pins ∧ t.irqMasked = false ∧
      t.trace = s.trace ++
        [.irqMask, .now s.nextTick, .irqUnmask,
          .spiXfer (s.inst h).pinB s.params.spiMode s.params.spiTx (s.nextSpi (s.inst h).pinB),
          .now (s.tickAt (s.env.tickPos + 1))]

/-- R143: one pulse of the clock line, in one masked window, the data line sampled at the end of the high phase; the line is left
low. -/
def Obligations.BbPulseResult : Prop :=
  ∀ (s : State) (h : Handle) (sample first : Bool), Ready s h → (s.inst h).configured = true →
    ∃ t, exec (.bbPulse h sample first) s = .next t ∧
      t.ret = .bit (if sample then s.nextLevel (s.inst h).pinA else false) ∧
      t.inst h = (if first then { s.inst h with tstart := s.nextTick } else s.inst h) ∧ SameOutside h s t ∧ SameMemory s t ∧
      (∀ q, t.pinLevel q = if q = (s.inst h).pinB then some false else s.pinLevel q) ∧ t.irqMasked = false ∧
      t.trace = s.trace ++
        ([.irqMask] ++ (if first then [.now s.nextTick] else []) ++
          [.pinWrite (s.inst h).pinB true, .waitAtLeast s.params.tHighMinNs] ++
          (if sample then [.pinRead (s.inst h).pinA (s.nextLevel (s.inst h).pinA)] else []) ++
          [.pinWrite (s.inst h).pinB false, .waitAtLeast s.params.tLowMinNs, .irqUnmask])

/-- R142, R105: XFER_BB on a configured BITBANG instance: the bit sampled on pulse k is bit 24 - k of ACC, the duration runs from the
first pulse, and the readiness is polled after the last. -/
def Obligations.XferBbResult : Prop :=
  ∀ (s : State) (h : Handle), Ready s h → (s.inst h).configured = true → (s.inst h).strat = .bitbang →
    1 ≤ (s.inst h).gainsel.toNat → (s.inst h).gainsel.toNat ≤ 4 →
    ∃ t acc, exec (.xferBb h) s = .next t ∧
      t.inst h =
        { s.inst h with
          tstart := s.nextTick
          tdur := s.tickAt (s.env.tickPos + 1) - s.nextTick
          rafter := !(s.levelAt (s.inst h).pinA (s.env.levelPos + 24))
          acc := acc } ∧
      (∀ k, 1 ≤ k → k ≤ 24 → acc.getLsbD (24 - k) = s.levelAt (s.inst h).pinA (s.env.levelPos + (k - 1))) ∧
      SameOutside h s t ∧ SameMemory s t ∧
      (∀ q, t.pinLevel q = if q = (s.inst h).pinB then some false else s.pinLevel q) ∧ t.irqMasked = false

/-- R105, R142, R72, R345: the train has exactly 24 + GAINSEL pulses, each a masked window of its own that holds the clock line high
and then low for at least the minimum widths; 24 pulses are sampled, and one more read follows the last pulse. -/
def Obligations.BitBangTrainShape : Prop :=
  ∀ (s t : State) (h : Handle), exec (.xferBb h) s = .next t →
    ∃ windows : List (List Event), ∃ tend last,
      t.trace = s.trace ++ (windows.flatten ++ [.now tend, .pinRead (s.inst h).pinA last]) ∧
      windows.length = 24 + (s.inst h).gainsel.toNat ∧
      (∀ k v, windows[k]? = some v → ∃ pre mid,
        v = [.irqMask] ++ pre ++ [.pinWrite (s.inst h).pinB true, .waitAtLeast s.params.tHighMinNs] ++ mid ++
          [.pinWrite (s.inst h).pinB false, .waitAtLeast s.params.tLowMinNs, .irqUnmask] ∧
        (if k = 0 then ∃ x, pre = [.now x] else pre = []) ∧
        (if k < 24 then ∃ x, mid = [.pinRead (s.inst h).pinA x] else mid = []))

/-- R144: TOO_LONG compares TDUR with the strategy's budget, unsigned and inclusive, and writes nothing. -/
def Obligations.TooLongResult : Prop :=
  ∀ (s : State) (h : Handle), Ready s h → (s.inst h).configured = true →
    ∃ b, exec (.tooLong h) s = .next { s with ret := .bit b } ∧
      ((s.inst h).strat = .register → (b = true ↔ s.params.budgetRegTicks ≤ (s.inst h).tdur.toNat)) ∧
      ((s.inst h).strat = .bitbang → (b = true ↔ s.params.budgetBbTicks ≤ (s.inst h).tdur.toNat))

/-! ### The decoder and the records (42_sample_decoder.md) -/

/-- R170: DECODE24: 0x800000 gives 0, every other raw value its sign extension; the flag is the range check; no state changes. -/
def Obligations.Decode24Result : Prop :=
  ∀ (s : State) (r : Raw24), s.halted = false →
    ∃ w b, exec (.decode24 r) s = .next { s with ret := .decoded w b } ∧ (r = 0x800000 → w = 0) ∧
      (r ≠ 0x800000 → w = r.signExtend 32) ∧ (b = true ↔ w.toInt < -0x7FFFFF ∨ w.toInt > 0x7FFFFF)

/-- R171: the range check never fires on a 24-bit input: the count by cases, and 0 for 0x000000 and 0x800000 only. -/
def Obligations.DecodeAlwaysInRange : Prop :=
  ∀ r : Raw24, decodeOor r = false ∧
    (r.toNat < 0x800000 → (decodeCount r).toInt = r.toNat ∧ r.toNat ≤ 0x7FFFFF) ∧
    (r.toNat = 0x800000 → (decodeCount r).toInt = 0) ∧
    (0x800000 < r.toNat →
      (decodeCount r).toInt = (r.toNat : Int) - 2 ^ 24 ∧ -0x7FFFFF ≤ (decodeCount r).toInt ∧ (decodeCount r).toInt ≤ -1) ∧
    (decodeCount r = 0 ↔ r = 0 ∨ r = 0x800000)

/-- R172, R173, R62: ENCODE_REC gives the four bytes, least significant first; re-assembling them gives the word again. -/
def Obligations.EncodeRecRoundTrip : Prop :=
  ∀ (s : State) (w : Word32), s.halted = false →
    ∃ b0 b1 b2 b3, exec (.encodeRec w) s = .next { s with ret := .bytes [b0, b1, b2, b3] } ∧
      assembleRec b0 b1 b2 b3 = w ∧
      w.toNat = b0.toNat + b1.toNat * 2 ^ 8 + b2.toNat * 2 ^ 16 + b3.toNat * 2 ^ 24

/-! ### The buffer (43_sample_buffer.md) -/

/-- R190: BUF_RESET empties the buffer and clears ERR; no byte is cleared and nothing is reported. -/
def Obligations.BufResetResult : Prop :=
  ∀ (s : State) (h : Handle), Ready s h →
    ∃ t, exec (.bufReset h) s = .next t ∧ t.inst h = { s.inst h with used := 0, err := 0 } ∧ SameOutside h s t ∧
      SameMemory s t ∧ t.pins = s.pins ∧ t.irqMasked = s.irqMasked ∧ t.trace = s.trace

/-- R191: BUF_APPEND. Where the record fits it is stored little-endian at USED and nothing is reported; where the buffer is full the
whole buffer is reported first and the record is stored at offset 0. -/
def Obligations.BufAppendResult : Prop :=
  ∀ (s : State) (h : Handle) (w : Word32), Ready s h →
    ((s.inst h).used + 4 ≤ capBytes s.params →
      ∃ t m, exec (.bufAppend h w) s = .next t ∧ t.inst h = { s.inst h with buf := m, used := (s.inst h).used + 4 } ∧
        SameOutside h s t ∧ t.pins = s.pins ∧ t.irqMasked = s.irqMasked ∧ t.trace = s.trace ∧
        (∀ j, j < 4 → t.byteAt h ((s.inst h).used + j) = some (w.extractLsb' (8 * j) 8)) ∧
        (∀ k a, ¬(k = h ∧ (s.inst h).used ≤ a ∧ a < (s.inst h).used + 4) → t.byteAt k a = s.byteAt k a)) ∧
    (∀ data : List Byte, (s.inst h).used = capBytes s.params → data.length = (s.inst h).used →
      (∀ k, k < (s.inst h).used → s.byteAt h k = data[k]?) →
      ∃ t m, exec (.bufAppend h w) s = .next t ∧ t.inst h = { s.inst h with buf := m, used := 4 } ∧ SameOutside h s t ∧
        t.pins = s.pins ∧ t.irqMasked = s.irqMasked ∧
        t.trace = s.trace ++
          [.report { h := h, err := (s.inst h).err, len := BitVec.ofNat 16 (s.inst h).used, data := data }] ∧
        (∀ j, j < 4 → t.byteAt h j = some (w.extractLsb' (8 * j) 8)) ∧
        (∀ k a, ¬(k = h ∧ a < 4) → t.byteAt k a = s.byteAt k a))

/-- R191, R192 over any sequence of appends to an empty buffer: none fails; a report is emitted exactly when the buffer is full and
one more record comes, so each carries CAP_BYTES bytes; the reports and then the buffer hold every record once, in order. -/
def Obligations.AppendsLoseNothing : Prop :=
  ∀ (s : State) (h : Handle) (ws : List Word32), Ready s h → Holds (s.inst h) [] →
    ∃ t rs held,
      appendAll h ws s = .next t ∧
      reportsOf t.trace = reportsOf s.trace ++ rs ∧ Holds (t.inst h) held ∧
      rs.flatMap (fun r => r.data) ++ recordBytes held = recordBytes ws ∧
      (∀ r ∈ rs, r.h = h ∧ r.err = (s.inst h).err ∧ r.data.length = capBytes s.params) ∧
      held.length ≤ capSlots s.params ∧ (ws ≠ [] → held ≠ [])

/-- R192: BUF_FLUSH reports the bytes held, oldest first, with ERR, then empties the buffer; ERR and the bytes stay. -/
def Obligations.BufFlushResult : Prop :=
  ∀ (s : State) (h : Handle) (data : List Byte), Ready s h → 4 ≤ (s.inst h).used →
    data.length = (s.inst h).used → (∀ k, k < (s.inst h).used → s.byteAt h k = data[k]?) →
    ∃ t, exec (.bufFlush h) s = .next t ∧ t.inst h = { s.inst h with used := 0 } ∧ SameOutside h s t ∧ SameMemory s t ∧
      t.pins = s.pins ∧ t.irqMasked = s.irqMasked ∧
      t.trace = s.trace ++
        [.report { h := h, err := (s.inst h).err, len := BitVec.ofNat 16 (s.inst h).used, data := data }]

/-- R274, R100: SAMPLE_REPORT is the frame of a flush, due when an append finds the buffer full or a code is set. (The frame without
the flush around it is the MODEL's choice: log 12.) -/
def Obligations.SampleReportEmits : Prop :=
  ∀ (s : State) (h : Handle) (data : List Byte), Ready s h → 4 ≤ (s.inst h).used →
    ((s.inst h).used + 4 > capBytes s.params ∨ (s.inst h).err ≠ 0) →
    data.length = (s.inst h).used → (∀ k, k < (s.inst h).used → s.byteAt h k = data[k]?) →
    exec (.sampleReport h) s =
      .next { s with
        trace := s.trace ++
          [.report { h := h, err := (s.inst h).err, len := BitVec.ofNat 16 (s.inst h).used, data := data }] }

/-! ### Errors and the fanout (44_error_classifier.md, 46_endstop_fanout.md, 60_exceptions.md) -/

/-- R210, R211, R212: the verdict of CLASSIFY in the order of its four tests; COUNT and OOR are written exactly when the decode is
reached. -/
def Obligations.ClassifyMatrix : Prop :=
  ∀ (s : State) (h : Handle), Ready s h → (s.inst h).configured = true →
    let i := s.inst h
    let late := (i.strat = .register ∧ s.params.budgetRegTicks ≤ i.tdur.toNat) ∨
      (i.strat = .bitbang ∧ s.params.budgetBbTicks ≤ i.tdur.toNat)
    let after := i.strat = .bitbang ∧ i.rafter = true
    let strict := i.policy = .escalateOnDesync
    ∃ t v, exec (.classify h) s = .next t ∧ t.ret = .verdict v ∧ SameOutside h s t ∧ SameMemory s t ∧ t.pins = s.pins ∧
      t.irqMasked = s.irqMasked ∧ t.trace = s.trace ∧
      (after → strict → v = .fatal .readyAfterRead) ∧ (after → ¬strict → v = .recoverable .readyAfterRead) ∧
      (¬after → late → v = .recoverable .transferTooLong) ∧
      (¬after → ¬late → strict → i.acc = 0xFFFFFF → v = .fatal .allOnes) ∧
      (¬after → ¬late → ¬(strict ∧ i.acc = 0xFFFFFF) →
        v = .sample ∧ t.inst h = { i with count := decodeCount i.acc, oor := false }) ∧
      (after ∨ late ∨ (strict ∧ i.acc = 0xFFFFFF) → t.inst h = i)

/-- R214, R301: EMIT_ERROR. With room: one report, of the records held and then the sentinel, with the number of the
code. On a full buffer: two reports, the full buffer with ERR as it was, then the lone sentinel with the code. Either way the buffer is
left empty and ERR clear. -/
def Obligations.EmitErrorResult : Prop :=
  ∀ (s : State) (h : Handle) (c : ErrorCode) (ws : List Word32), Ready s h → Holds (s.inst h) ws →
    let number : Byte :=
      match c with
      | .transferTooLong => 1
      | .outOfRange => 2
      | .readyAfterRead => 3
    ((s.inst h).used + 4 ≤ capBytes s.params →
      ∃ t m, exec (.emitError h c) s = .next t ∧ t.inst h = { s.inst h with buf := m, used := 0, err := 0 } ∧
        SameOutside h s t ∧ t.pins = s.pins ∧ t.irqMasked = s.irqMasked ∧
        t.trace = s.trace ++
          [.report
            { h := h, err := number, len := BitVec.ofNat 16 ((s.inst h).used + 4),
              data := recordBytes (ws ++ [0x80000000]) }] ∧
        (∀ k a, ¬(k = h ∧ (s.inst h).used ≤ a ∧ a < (s.inst h).used + 4) → t.byteAt k a = s.byteAt k a)) ∧
    ((s.inst h).used = capBytes s.params →
      ∃ t m, exec (.emitError h c) s = .next t ∧ t.inst h = { s.inst h with buf := m, used := 0, err := 0 } ∧
        SameOutside h s t ∧ t.pins = s.pins ∧ t.irqMasked = s.irqMasked ∧
        t.trace = s.trace ++
          [.report
            { h := h, err := (s.inst h).err, len := BitVec.ofNat 16 (s.inst h).used, data := recordBytes ws },
           .report { h := h, err := number, len := 4, data := [0, 0, 0, 0x80] }] ∧
        (∀ k a, ¬(k = h ∧ a < 4) → t.byteAt k a = s.byteAt k a))

/-- R260, R101: FANOUT_DELIVER emits one frame where a consumer is attached, and changes no state of the block. -/
def Obligations.FanoutDelivers : Prop :=
  ∀ (s : State) (h : Handle), Ready s h →
    exec (.fanoutDeliver h) s =
      .next { s with
        trace := s.trace ++
          (if (s.inst h).endstopValid then
            [.deliver { consumer := (s.inst h).endstopRef, count := (s.inst h).count, ts := (s.inst h).tstart }]
          else []) }

/-- R310, R302: the entry to the fatal halt writes the three halt registers and nothing else, and from then on no operation
runs. That a step out of the halt is power-on reset's turn (R311) is the MODEL's choice (log 7). -/
def Obligations.FatalHaltEntry : Prop :=
  ∀ (s : State) (h : Handle) (c : FatalCause), Ready s h →
    ∃ t, exec (.fatalHalt h c) s = .next t ∧
      t = { s with haltCause := t.haltCause, haltH := h, halted := true } ∧
      (t.haltCause.toNat =
        match c with
        | .configSelector => 1
        | .allOnes => 2
        | .outOfRange => 3
        | .readyAfterRead => 4) ∧
      (∀ i, exec i t = .fault .halted) ∧ ∀ u, step t = .next u → t.nextAgent = .powerOn

/-! ### Timers and the task (45_cycle_scheduler.md) -/

/-- R230: TIMER_ARM. -/
def Obligations.TimerArmResult : Prop :=
  ∀ (s : State) (h : Handle), Ready s h → (s.inst h).rest ≠ 0 →
    ∃ t, exec (.timerArm h) s = .next t ∧
      t.inst h = { s.inst h with tmrWake := s.nextTick + (s.inst h).rest, tmrArmed := true } ∧ SameOutside h s t ∧
      SameMemory s t ∧ t.pins = s.pins ∧ t.irqMasked = false ∧ t.trace = s.trace ++ [.irqMask, .now s.nextTick, .irqUnmask]

/-- R231: TIMER_CANCEL. -/
def Obligations.TimerCancelResult : Prop :=
  ∀ (s : State) (h : Handle), Ready s h →
    ∃ t, exec (.timerCancel h) s = .next t ∧ t.inst h = { s.inst h with tmrArmed := false } ∧ SameOutside h s t ∧
      SameMemory s t ∧ t.pins = s.pins ∧ t.irqMasked = false ∧ t.trace = s.trace ++ [.irqMask, .irqUnmask]

/-- R232, R321: TIMER_FIRE under its enabling condition. -/
def Obligations.TimerFireResult : Prop :=
  ∀ (s : State) (h : Handle), Ready s h → s.irqMasked = false → (s.inst h).configured = true →
    (s.inst h).tmrArmed = true → (s.nextTick - (s.inst h).tmrWake).toNat < 2 ^ 31 →
    ∃ t, exec (.timerFire h) s = .next t ∧ t.inst h = { s.inst h with tmrArmed := false, pending := true } ∧
      t.wake = true ∧ (∀ k, k ≠ h → t.inst k = s.inst k) ∧ SameMemory s t ∧ t.task = s.task ∧ t.halted = s.halted ∧
      t.haltCause = s.haltCause ∧ t.haltH = s.haltH ∧ t.params = s.params ∧ t.nInst = s.nInst ∧ t.pins = s.pins ∧
      t.port = s.port ∧ t.sched = s.sched ∧ t.irqMasked = false ∧ t.trace = s.trace

/-- R233: TASK_BEGIN clears the wake and takes up every configured instance, each once. -/
def Obligations.TaskBeginResult : Prop :=
  ∀ s : State, s.halted = false → s.task = .idle → s.wake = true → s.nInst ≤ 256 →
    ∃ t S, exec .taskBegin s = .next t ∧
      t = { s with
        wake := false, task := .pass S, irqMasked := false, trace := s.trace ++ [.irqMask, .irqUnmask] } ∧
      S.Nodup ∧ ∀ h : Handle, h ∈ S ↔ (h.toNat < s.nInst ∧ (s.inst h).configured = true)

/-- R234: TASK_VISIT of any handle of the set takes it off the set; a pending instance gets one SERVICE, any other is skipped. -/
def Obligations.TaskVisitResult : Prop :=
  ∀ (s : State) (h : Handle) (S : List Handle), Ready s h → s.task = .pass S → h ∈ S →
    ((s.inst h).pending = true →
      exec (.taskVisit h) s = exec (.service h) { s with task := .pass (S.filter fun k => k ≠ h) }) ∧
    ((s.inst h).pending = false → exec (.taskVisit h) s = .next { s with task := .pass (S.filter fun k => k ≠ h) })

/-- R235: TASK_END. -/
def Obligations.TaskEndResult : Prop :=
  ∀ s : State, s.halted = false → s.task = .pass [] → exec .taskEnd s = .next { s with task := .idle }

/-! ### The acquisition cycle (45_cycle_scheduler.md R240) -/

/-- R240, R246: a cycle that finds the converter not ready makes no transfer and re-arms the timer. -/
def Obligations.ServiceDefers : Prop :=
  ∀ (s : State) (h : Handle), Ready s h → (s.inst h).pending = true →
    s.nextLevel (s.inst h).pinA = true →
    ∃ t, exec (.service h) s = .next t ∧
      t.inst h =
        { s.inst h with pending := false, tmrWake := s.nextTick + (s.inst h).rest, tmrArmed := true } ∧
      SameOutside h s t ∧ SameMemory s t ∧ t.pins = s.pins ∧ t.irqMasked = false ∧
      t.trace = s.trace ++
        [.irqMask, .irqUnmask, .pinRead (s.inst h).pinA true, .irqMask, .now s.nextTick, .irqUnmask]

/-- R240, R260, R191: a good register transfer. The sample is delivered, then buffered, then the timer is re-armed from a tick read at the
end of the cycle; on a full buffer the report of the records held comes after the delivery (R260 d) and the record goes to offset 0. -/
def Obligations.ServiceRegisterSample : Prop :=
  ∀ (s : State) (h : Handle), Ready s h → (s.inst h).pending = true →
    (s.inst h).strat = .register → s.nextLevel (s.inst h).pinA = false →
    (s.tickAt (s.env.tickPos + 1) - s.nextTick).toNat < s.params.budgetRegTicks →
    let rx := s.nextSpi (s.inst h).pinB
    ¬((s.inst h).policy = .escalateOnDesync ∧ rx = ⟨0xFF, 0xFF, 0xFF⟩) →
    let raw : Raw24 := rx.b0 ++ rx.b1 ++ rx.b2
    let sampled : Inst :=
      { s.inst h with
        pending := false, tstart := s.nextTick, tdur := s.tickAt (s.env.tickPos + 1) - s.nextTick, acc := raw,
        rafter := false, count := decodeCount raw, oor := false,
        tmrWake := s.tickAt (s.env.tickPos + 2) + (s.inst h).rest, tmrArmed := true }
    let before : List Event :=
      [.irqMask, .irqUnmask, .pinRead (s.inst h).pinA false, .irqMask, .now s.nextTick, .irqUnmask,
        .spiXfer (s.inst h).pinB s.params.spiMode s.params.spiTx rx, .now (s.tickAt (s.env.tickPos + 1))] ++
      (if (s.inst h).endstopValid then
        [.deliver { consumer := (s.inst h).endstopRef, count := decodeCount raw, ts := s.nextTick }]
      else [])
    let rearm : List Event := [.irqMask, .now (s.tickAt (s.env.tickPos + 2)), .irqUnmask]
    ((s.inst h).used + 4 ≤ capBytes s.params →
      ∃ t m, exec (.service h) s = .next t ∧ t.inst h = { sampled with buf := m, used := (s.inst h).used + 4 } ∧
        SameOutside h s t ∧ t.pins = s.pins ∧ t.irqMasked = false ∧ t.trace = s.trace ++ before ++ rearm ∧
        (∀ j, j < 4 → t.byteAt h ((s.inst h).used + j) = some ((decodeCount raw).extractLsb' (8 * j) 8)) ∧
        (∀ k a, ¬(k = h ∧ (s.inst h).used ≤ a ∧ a < (s.inst h).used + 4) → t.byteAt k a = s.byteAt k a)) ∧
    (∀ ws, (s.inst h).used = capBytes s.params → Holds (s.inst h) ws →
      ∃ t m, exec (.service h) s = .next t ∧ t.inst h = { sampled with buf := m, used := 4 } ∧
        SameOutside h s t ∧ t.pins = s.pins ∧ t.irqMasked = false ∧
        t.trace = s.trace ++ before ++
          [.report
            { h := h, err := (s.inst h).err, len := BitVec.ofNat 16 (s.inst h).used, data := recordBytes ws }] ++ rearm ∧
        (∀ j, j < 4 → t.byteAt h j = some ((decodeCount raw).extractLsb' (8 * j) 8)) ∧
        (∀ k a, ¬(k = h ∧ a < 4) → t.byteAt k a = s.byteAt k a))

/-- R240, R144, R211, R214, R260 (b): a register transfer that takes the budget or longer. One error record with code 1, nothing
delivered, COUNT and OOR as they were, the timer re-armed from a tick read at the end of the cycle. -/
def Obligations.ServiceRegisterTooLong : Prop :=
  ∀ (s : State) (h : Handle) (ws : List Word32), Ready s h → (s.inst h).pending = true → Holds (s.inst h) ws →
    (s.inst h).strat = .register → s.nextLevel (s.inst h).pinA = false →
    s.params.budgetRegTicks ≤ (s.tickAt (s.env.tickPos + 1) - s.nextTick).toNat →
    let rx := s.nextSpi (s.inst h).pinB
    let failed : Inst :=
      { s.inst h with
        pending := false, tstart := s.nextTick, tdur := s.tickAt (s.env.tickPos + 1) - s.nextTick,
        acc := rx.b0 ++ rx.b1 ++ rx.b2, rafter := false, used := 0, err := 0,
        tmrWake := s.tickAt (s.env.tickPos + 2) + (s.inst h).rest, tmrArmed := true }
    let before : List Event :=
      [.irqMask, .irqUnmask, .pinRead (s.inst h).pinA false, .irqMask, .now s.nextTick, .irqUnmask,
        .spiXfer (s.inst h).pinB s.params.spiMode s.params.spiTx rx, .now (s.tickAt (s.env.tickPos + 1))]
    let rearm : List Event := [.irqMask, .now (s.tickAt (s.env.tickPos + 2)), .irqUnmask]
    ((s.inst h).used + 4 ≤ capBytes s.params ∨ (s.inst h).used = capBytes s.params) →
    ∃ t m, exec (.service h) s = .next t ∧ t.inst h = { failed with buf := m } ∧ SameOutside h s t ∧ t.pins = s.pins ∧
      t.irqMasked = false ∧
      ((s.inst h).used + 4 ≤ capBytes s.params →
        t.trace = s.trace ++ before ++
          [.report
            { h := h, err := 1, len := BitVec.ofNat 16 ((s.inst h).used + 4),
              data := recordBytes (ws ++ [0x80000000]) }] ++ rearm ∧
        ∀ k a, ¬(k = h ∧ (s.inst h).used ≤ a ∧ a < (s.inst h).used + 4) → t.byteAt k a = s.byteAt k a) ∧
      ((s.inst h).used = capBytes s.params →
        t.trace = s.trace ++ before ++
          [.report
            { h := h, err := (s.inst h).err, len := BitVec.ofNat 16 (s.inst h).used, data := recordBytes ws },
           .report { h := h, err := 1, len := 4, data := [0, 0, 0, 0x80] }] ++ rearm ∧
        ∀ k a, ¬(k = h ∧ a < 4) → t.byteAt k a = s.byteAt k a)

/-- R240, R142, R105, R170: a good bit-bang transfer. The poll before the cycle draws one level, the 24 data pulses the next 24 (the
first of them is bit 23 of the raw value), the poll after the train one more. The count is delivered where a consumer is attached, then
buffered, then the timer is re-armed. -/
def Obligations.ServiceBitBangSample : Prop :=
  ∀ (s : State) (h : Handle) (raw : Raw24), Ready s h → (s.inst h).pending = true →
    (s.inst h).strat = .bitbang → s.nextLevel (s.inst h).pinA = false →
    (∀ k, 1 ≤ k → k ≤ 24 → raw.getLsbD (24 - k) = s.levelAt (s.inst h).pinA (s.env.levelPos + k)) →
    s.levelAt (s.inst h).pinA (s.env.levelPos + 25) = true →
    (s.tickAt (s.env.tickPos + 1) - s.nextTick).toNat < s.params.budgetBbTicks →
    ¬((s.inst h).policy = .escalateOnDesync ∧ raw = 0xFFFFFF) →
    let sampled : Inst :=
      { s.inst h with
        pending := false, tstart := s.nextTick, tdur := s.tickAt (s.env.tickPos + 1) - s.nextTick, acc := raw,
        rafter := false, count := decodeCount raw, oor := false,
        tmrWake := s.tickAt (s.env.tickPos + 2) + (s.inst h).rest, tmrArmed := true }
    let before : List Event :=
      [.irqMask, .irqUnmask, .pinRead (s.inst h).pinA false] ++ bitBangTrain s h (s.env.levelPos + 1) ++
      [.now (s.tickAt (s.env.tickPos + 1)), .pinRead (s.inst h).pinA true] ++
      (if (s.inst h).endstopValid then
        [.deliver { consumer := (s.inst h).endstopRef, count := decodeCount raw, ts := s.nextTick }]
      else [])
    let rearm : List Event := [.irqMask, .now (s.tickAt (s.env.tickPos + 2)), .irqUnmask]
    ((s.inst h).used + 4 ≤ capBytes s.params →
      ∃ t m, exec (.service h) s = .next t ∧ t.inst h = { sampled with buf := m, used := (s.inst h).used + 4 } ∧
        SameOutside h s t ∧ (∀ q, t.pinLevel q = if q = (s.inst h).pinB then some false else s.pinLevel q) ∧
        t.irqMasked = false ∧ t.trace = s.trace ++ before ++ rearm ∧
        (∀ j, j < 4 → t.byteAt h ((s.inst h).used + j) = some ((decodeCount raw).extractLsb' (8 * j) 8)) ∧
        (∀ k a, ¬(k = h ∧ (s.inst h).used ≤ a ∧ a < (s.inst h).used + 4) → t.byteAt k a = s.byteAt k a)) ∧
    (∀ ws, (s.inst h).used = capBytes s.params → Holds (s.inst h) ws →
      ∃ t m, exec (.service h) s = .next t ∧ t.inst h = { sampled with buf := m, used := 4 } ∧
        SameOutside h s t ∧ (∀ q, t.pinLevel q = if q = (s.inst h).pinB then some false else s.pinLevel q) ∧
        t.irqMasked = false ∧
        t.trace = s.trace ++ before ++
          [.report
            { h := h, err := (s.inst h).err, len := BitVec.ofNat 16 (s.inst h).used, data := recordBytes ws }] ++ rearm ∧
        (∀ j, j < 4 → t.byteAt h j = some ((decodeCount raw).extractLsb' (8 * j) 8)) ∧
        (∀ k a, ¬(k = h ∧ a < 4) → t.byteAt k a = s.byteAt k a))

/-- R240, R210, R211, R214, R260 (b): a bit-bang cycle with a recoverable error. The line low after the train, under the lenient policy,
gives code 3 whatever the duration; otherwise a train that takes the budget or longer gives code 1 under either policy. Nothing is
delivered, COUNT and OOR stay, the timer is re-armed. -/
def Obligations.ServiceBitBangError : Prop :=
  ∀ (s : State) (h : Handle) (raw : Raw24) (ws : List Word32) (code : Byte), Ready s h → (s.inst h).pending = true →
    Holds (s.inst h) ws → (s.inst h).strat = .bitbang → s.nextLevel (s.inst h).pinA = false →
    (∀ k, 1 ≤ k → k ≤ 24 → raw.getLsbD (24 - k) = s.levelAt (s.inst h).pinA (s.env.levelPos + k)) →
    let last := s.levelAt (s.inst h).pinA (s.env.levelPos + 25)
    ((last = false ∧ (s.inst h).policy = .alwaysRecoverable ∧ code = 3) ∨
      (last = true ∧ s.params.budgetBbTicks ≤ (s.tickAt (s.env.tickPos + 1) - s.nextTick).toNat ∧ code = 1)) →
    let failed : Inst :=
      { s.inst h with
        pending := false, tstart := s.nextTick, tdur := s.tickAt (s.env.tickPos + 1) - s.nextTick, acc := raw,
        rafter := !last, used := 0, err := 0,
        tmrWake := s.tickAt (s.env.tickPos + 2) + (s.inst h).rest, tmrArmed := true }
    let before : List Event :=
      [.irqMask, .irqUnmask, .pinRead (s.inst h).pinA false] ++ bitBangTrain s h (s.env.levelPos + 1) ++
      [.now (s.tickAt (s.env.tickPos + 1)), .pinRead (s.inst h).pinA last]
    let rearm : List Event := [.irqMask, .now (s.tickAt (s.env.tickPos + 2)), .irqUnmask]
    ((s.inst h).used + 4 ≤ capBytes s.params ∨ (s.inst h).used = capBytes s.params) →
    ∃ t m, exec (.service h) s = .next t ∧ t.inst h = { failed with buf := m } ∧ SameOutside h s t ∧
      (∀ q, t.pinLevel q = if q = (s.inst h).pinB then some false else s.pinLevel q) ∧ t.irqMasked = false ∧
      ((s.inst h).used + 4 ≤ capBytes s.params →
        t.trace = s.trace ++ before ++
          [.report
            { h := h, err := code, len := BitVec.ofNat 16 ((s.inst h).used + 4),
              data := recordBytes (ws ++ [0x80000000]) }] ++ rearm ∧
        ∀ k a, ¬(k = h ∧ (s.inst h).used ≤ a ∧ a < (s.inst h).used + 4) → t.byteAt k a = s.byteAt k a) ∧
      ((s.inst h).used = capBytes s.params →
        t.trace = s.trace ++ before ++
          [.report
            { h := h, err := (s.inst h).err, len := BitVec.ofNat 16 (s.inst h).used, data := recordBytes ws },
           .report { h := h, err := code, len := 4, data := [0, 0, 0, 0x80] }] ++ rearm ∧
        ∀ k a, ¬(k = h ∧ a < 4) → t.byteAt k a = s.byteAt k a)

/-- R240, R210, R211, R302, R310: a bit-bang cycle under the strict policy halts with cause 4 where the line is low after the train,
whatever the duration, and with cause 2 where it is high, the train was in time and all 24 bits read 1. Nothing is reported, delivered
or re-armed. -/
def Obligations.ServiceBitBangHalts : Prop :=
  ∀ (s : State) (h : Handle) (raw : Raw24) (cause : Byte), Ready s h → (s.inst h).pending = true →
    (s.inst h).strat = .bitbang → (s.inst h).policy = .escalateOnDesync → s.nextLevel (s.inst h).pinA = false →
    (∀ k, 1 ≤ k → k ≤ 24 → raw.getLsbD (24 - k) = s.levelAt (s.inst h).pinA (s.env.levelPos + k)) →
    let last := s.levelAt (s.inst h).pinA (s.env.levelPos + 25)
    ((last = false ∧ cause = 4) ∨
      (last = true ∧ (s.tickAt (s.env.tickPos + 1) - s.nextTick).toNat < s.params.budgetBbTicks ∧ raw = 0xFFFFFF ∧
        cause = 2)) →
    ∃ t, exec (.service h) s = .next t ∧ t.halted = true ∧ t.haltCause = cause ∧ t.haltH = h ∧
      t.inst h =
        { s.inst h with
          pending := false, tstart := s.nextTick, tdur := s.tickAt (s.env.tickPos + 1) - s.nextTick, acc := raw,
          rafter := !last } ∧
      (∀ k, k ≠ h → t.inst k = s.inst k) ∧ SameMemory s t ∧ t.params = s.params ∧ t.nInst = s.nInst ∧ t.task = s.task ∧
      t.wake = s.wake ∧ t.port = s.port ∧ t.sched = s.sched ∧ t.irqMasked = false ∧
      (∀ q, t.pinLevel q = if q = (s.inst h).pinB then some false else s.pinLevel q) ∧
      t.trace = s.trace ++ [.irqMask, .irqUnmask, .pinRead (s.inst h).pinA false] ++
        bitBangTrain s h (s.env.levelPos + 1) ++
        [.now (s.tickAt (s.env.tickPos + 1)), .pinRead (s.inst h).pinA last]

/-- R240, R210, R260 (b), R310: 0xFFFFFF in time under the strict policy halts the block. The trace is whole: after the second tick
nothing is delivered, reported or re-armed. -/
def Obligations.ServiceAllOnesHalts : Prop :=
  ∀ (s : State) (h : Handle), Ready s h → (s.inst h).pending = true →
    (s.inst h).strat = .register → (s.inst h).policy = .escalateOnDesync → s.nextLevel (s.inst h).pinA = false →
    (s.tickAt (s.env.tickPos + 1) - s.nextTick).toNat < s.params.budgetRegTicks →
    s.nextSpi (s.inst h).pinB = ⟨0xFF, 0xFF, 0xFF⟩ →
    ∃ t, exec (.service h) s = .next t ∧ t.halted = true ∧ t.haltCause = 2 ∧ t.haltH = h ∧
      t.inst h =
        { s.inst h with
          pending := false, tstart := s.nextTick, tdur := s.tickAt (s.env.tickPos + 1) - s.nextTick, acc := 0xFFFFFF,
          rafter := false } ∧
      (∀ k, k ≠ h → t.inst k = s.inst k) ∧ SameMemory s t ∧ t.params = s.params ∧ t.nInst = s.nInst ∧ t.task = s.task ∧
      t.wake = s.wake ∧ t.port = s.port ∧ t.sched = s.sched ∧ t.irqMasked = false ∧ t.pins = s.pins ∧
      t.trace = s.trace ++
        [.irqMask, .irqUnmask, .pinRead (s.inst h).pinA false, .irqMask, .now s.nextTick, .irqUnmask,
          .spiXfer (s.inst h).pinB s.params.spiMode s.params.spiTx ⟨0xFF, 0xFF, 0xFF⟩,
          .now (s.tickAt (s.env.tickPos + 1))]

/-- R33, R240 (a): from a sound state a cycle always completes, in exactly one of four ways, by the verdict on the transfer it made:
deferred (the buffer as it was), the count of ACC appended (to the records held, or after a report of them when the buffer is full), one
error record reported with the verdict's code and the buffer empty, or a halt with the verdict's cause and nothing appended. -/
def Obligations.ServiceFourOutcomes : Prop :=
  ∀ (s : State) (h : Handle) (ws : List Word32), Sound s → Ready s h → (s.inst h).pending = true → Holds (s.inst h) ws →
    let room := (s.inst h).used + 4 ≤ capBytes s.params
    let full := (s.inst h).used = capBytes s.params
    ∃ t, exec (.service h) s = .next t ∧ (t.inst h).pending = false ∧ (∀ k, k ≠ h → t.inst k = s.inst k) ∧
      ((t.halted = false ∧ (t.inst h).phase = .armed ∧ s.nextLevel (s.inst h).pinA = true ∧ Holds (t.inst h) ws ∧
          reportsOf t.trace = reportsOf s.trace) ∨
       (t.halted = false ∧ (t.inst h).phase = .armed ∧ s.nextLevel (s.inst h).pinA = false ∧
          classifyVerdict s.params (t.inst h) = .sample ∧ IsCount (decodeCount (t.inst h).acc) ∧
          ((room ∧ Holds (t.inst h) (ws ++ [decodeCount (t.inst h).acc]) ∧ reportsOf t.trace = reportsOf s.trace) ∨
           (full ∧ Holds (t.inst h) [decodeCount (t.inst h).acc] ∧
              ∃ r, reportsOf t.trace = reportsOf s.trace ++ [r] ∧ r.h = h ∧ r.err = 0 ∧ r.data = recordBytes ws))) ∨
       (t.halted = false ∧ (t.inst h).phase = .armed ∧ s.nextLevel (s.inst h).pinA = false ∧ Holds (t.inst h) [] ∧
          ∃ c rs r, classifyVerdict s.params (t.inst h) = .recoverable c ∧
            reportsOf t.trace = reportsOf s.trace ++ rs ++ [r] ∧ r.h = h ∧
            r.err.toNat =
              (match c with
              | .transferTooLong => 1
              | .outOfRange => 2
              | .readyAfterRead => 3) ∧
            ((room ∧ rs = [] ∧ r.data = recordBytes (ws ++ [sentinel])) ∨
             (full ∧ r.data = recordBytes [sentinel] ∧
                ∃ q, rs = [q] ∧ q.h = h ∧ q.err = 0 ∧ q.data = recordBytes ws))) ∨
       (t.halted = true ∧ (t.inst h).phase = .servicing ∧ s.nextLevel (s.inst h).pinA = false ∧ Holds (t.inst h) ws ∧
          reportsOf t.trace = reportsOf s.trace ∧ t.haltH = h ∧
          ∃ c, classifyVerdict s.params (t.inst h) = .fatal c ∧
            t.haltCause.toNat =
              match c with
              | .configSelector => 1
              | .allOnes => 2
              | .outOfRange => 3
              | .readyAfterRead => 4))

/-! ### Whole-machine properties -/

/-- R31 to R35, R72, R73, R145, R214: the invariant is kept by every step of every agent. -/
def Obligations.StepKeepsSound : Prop := ∀ s t : State, Sound s → step s = .next t → Sound t

/-- R9, R40: power-on reset with legal parameters is sound, and so is State.reset. -/
def Obligations.ResetIsSound : Prop :=
  (∀ (n : Nat) (p : Params), 1 ≤ n → n ≤ 256 → paramsWf p → Sound (State.powerOn n p)) ∧ Sound State.reset

/-- R22, R74: after CONFIGURE the configuration of an instance never changes, short of power-on reset. -/
def Obligations.ConfigurationImmutable : Prop :=
  ∀ (s t : State) (h : Handle), step s = .next t → s.nextAgent ≠ .powerOn → (s.inst h).configured = true →
    SameConfig (s.inst h) (t.inst h)

/-- R245: every change of STATE(h) of a configured instance is one of the table's, made by the agent the table names. -/
def Obligations.PhaseTransitions : Prop :=
  ∀ (s t : State) (h : Handle), Sound s → step s = .next t → s.nextAgent ≠ .powerOn → h.toNat < s.nInst →
    (s.inst h).configured = true → (t.inst h).phase ≠ (s.inst h).phase →
    ((s.inst h).phase = .armed ∧ (t.inst h).phase = .servicing ∧ s.nextAgent = .timer h) ∨
    ((s.inst h).phase = .servicing ∧ (t.inst h).phase = .armed ∧ s.nextAgent = .taskVisit h ∧ t.halted = false) ∨
    (s.nextAgent = .host ∧
      ∃ w ws n, s.useAgent.present.port = w :: ws ∧ decode w = .ok (.startStop h n) ∧
        (t.inst h).phase = if n = 0 then .stopped else .armed)

/-- R71's core: the three writes of a TIMER_FIRE of another instance may come before or after a SERVICE: the outcome is the same. (The
writes alone: after a SERVICE that halts, no TIMER_FIRE is enabled, R310.) -/
def Obligations.TimerFireCommutesWithService : Prop :=
  ∀ (s : State) (h k : Handle), k ≠ h → service (timerFire s k) h = (service s h).map fun t => timerFire t k

/-- R100, R101, R102: the frames as bits. -/
def Obligations.FrameLayouts : Prop :=
  (∀ (h : Handle) (e : Byte) (n : BitVec 16) (data : List Byte),
    reportBytes { h := h, err := e, len := n, data := data } =
      h :: e :: BitVec.ofNat 8 (n.toNat % 256) :: BitVec.ofNat 8 (n.toNat / 256) :: data) ∧
  (∀ (c : Handle) (n ts : BitVec 32),
    (deliverBits { consumer := c, count := n, ts := ts }).toNat = c.toNat * 2 ^ 64 + n.toNat * 2 ^ 32 + ts.toNat) ∧
  (∀ (h : Handle) (ts win : Tick) (p : Byte),
    (statusBits { h := h, ts := ts, window := win, pendingBytes := p }).toNat =
      h.toNat * 2 ^ 72 + ts.toNat * 2 ^ 40 + win.toNat * 2 ^ 8 + p.toNat)

/-! ### Outside the operands of the rules: where the model stops, where it runs (its own choices, marked so in the log) -/

/-- The MODEL's choice: where a sub-operation run on its own is outside the operands of its rule (log 11), where a flush is below the one
record that R192 requires (log 19), where an event or a report is not enabled (log 20), and under which name it stops. -/
def Obligations.OperandStops : Prop :=
  ∀ (s : State) (h : Handle), Ready s h →
    ((s.inst h).rest = 0 → exec (.timerArm h) s = .refused .outsideOperands) ∧
    ((s.inst h).pending = false → exec (.service h) s = .refused .outsideOperands) ∧
    ((s.inst h).strat = .bitbang → exec (.xferReg h) s = .refused .outsideOperands) ∧
    (((s.inst h).strat = .register ∨ (s.inst h).gainsel.toNat = 0 ∨ 5 ≤ (s.inst h).gainsel.toNat) →
      exec (.xferBb h) s = .refused .outsideOperands) ∧
    ((s.inst h).used < 4 → exec (.bufFlush h) s = .fault .flushBelowRecord) ∧
    ((s.inst h).used < 4 → (s.inst h).err ≠ 0 → exec (.sampleReport h) s = .fault .flushBelowRecord) ∧
    ((s.irqMasked = true ∨ (s.inst h).configured = false ∨ (s.inst h).tmrArmed = false ∨
        2 ^ 31 ≤ (s.nextTick - (s.inst h).tmrWake).toNat) → exec (.timerFire h) s = .refused .notEnabled) ∧
    ((∀ S, s.task = .pass S → h ∉ S) → exec (.taskVisit h) s = .refused .notEnabled) ∧
    (s.task ≠ .pass [] → exec .taskEnd s = .refused .notEnabled) ∧
    (s.task ≠ .idle ∨ s.wake = false → exec .taskBegin s = .refused .notEnabled) ∧
    ((s.inst h).used + 4 ≤ capBytes s.params → (s.inst h).err = 0 →
      exec (.sampleReport h) s = .refused .notEnabled)

/-- The MODEL's choice (logs 4, 11; U4 and R40 would have it fault): READY_POLL, XFER_REG, XFER_BB, BB_PULSE, TOO_LONG and CLASSIFY run on
their own on an instance that nothing has configured do what they do on a configured one, on the values its registers hold. -/
def Obligations.UnconfiguredInstanceRuns : Prop :=
  ∀ (s : State) (h : Handle), Ready s h → (s.inst h).configured = false →
    (∃ t, exec (.readyPoll h) s = .next t ∧
      t.ret = .bit (if s.nextLevel (s.inst h).pinA = false then true else false) ∧ t.inst h = s.inst h ∧
      SameOutside h s t ∧ SameMemory s t ∧ t.pins = s.pins ∧ t.irqMasked = s.irqMasked ∧
      t.trace = s.trace ++ [.pinRead (s.inst h).pinA (s.nextLevel (s.inst h).pinA)]) ∧
    ((s.inst h).strat = .register →
      ∃ t, exec (.xferReg h) s = .next t ∧
        t.inst h =
          { s.inst h with
            tstart := s.nextTick
            tdur := s.tickAt (s.env.tickPos + 1) - s.nextTick
            acc := (s.nextSpi (s.inst h).pinB).b0 ++ (s.nextSpi (s.inst h).pinB).b1 ++ (s.nextSpi (s.inst h).pinB).b2
            rafter := false } ∧
        SameOutside h s t ∧ SameMemory s t ∧ t.pins = s.pins ∧ t.irqMasked = false ∧
        t.trace = s.trace ++
          [.irqMask, .now s.nextTick, .irqUnmask,
            .spiXfer (s.inst h).pinB s.params.spiMode s.params.spiTx (s.nextSpi (s.inst h).pinB),
            .now (s.tickAt (s.env.tickPos + 1))]) ∧
    ((s.inst h).strat = .bitbang → 1 ≤ (s.inst h).gainsel.toNat → (s.inst h).gainsel.toNat ≤ 4 →
      ∃ t acc, exec (.xferBb h) s = .next t ∧
        t.inst h =
          { s.inst h with
            tstart := s.nextTick
            tdur := s.tickAt (s.env.tickPos + 1) - s.nextTick
            rafter := !(s.levelAt (s.inst h).pinA (s.env.levelPos + 24))
            acc := acc } ∧
        (∀ k, 1 ≤ k → k ≤ 24 → acc.getLsbD (24 - k) = s.levelAt (s.inst h).pinA (s.env.levelPos + (k - 1))) ∧
        SameOutside h s t ∧ SameMemory s t ∧
        (∀ q, t.pinLevel q = if q = (s.inst h).pinB then some false else s.pinLevel q) ∧ t.irqMasked = false ∧
        t.trace = s.trace ++ bitBangTrain s h s.env.levelPos ++
          [.now (s.tickAt (s.env.tickPos + 1)),
            .pinRead (s.inst h).pinA (s.levelAt (s.inst h).pinA (s.env.levelPos + 24))]) ∧
    (∀ sample first,
      ∃ t, exec (.bbPulse h sample first) s = .next t ∧
        t.ret = .bit (if sample then s.nextLevel (s.inst h).pinA else false) ∧
        t.inst h = (if first then { s.inst h with tstart := s.nextTick } else s.inst h) ∧ SameOutside h s t ∧
        SameMemory s t ∧ (∀ q, t.pinLevel q = if q = (s.inst h).pinB then some false else s.pinLevel q) ∧
        t.irqMasked = false ∧
        t.trace = s.trace ++
          ([.irqMask] ++ (if first then [.now s.nextTick] else []) ++
            [.pinWrite (s.inst h).pinB true, .waitAtLeast s.params.tHighMinNs] ++
            (if sample then [.pinRead (s.inst h).pinA (s.nextLevel (s.inst h).pinA)] else []) ++
            [.pinWrite (s.inst h).pinB false, .waitAtLeast s.params.tLowMinNs, .irqUnmask])) ∧
    (∃ b, exec (.tooLong h) s = .next { s with ret := .bit b } ∧
      ((s.inst h).strat = .register → (b = true ↔ s.params.budgetRegTicks ≤ (s.inst h).tdur.toNat)) ∧
      ((s.inst h).strat = .bitbang → (b = true ↔ s.params.budgetBbTicks ≤ (s.inst h).tdur.toNat))) ∧
    (∃ t, exec (.classify h) s = .next t ∧ t.ret = .verdict (classifyVerdict s.params (s.inst h)) ∧
      t.inst h =
        (if classifyVerdict s.params (s.inst h) = .sample then
          { s.inst h with count := decodeCount (s.inst h).acc, oor := false }
        else s.inst h) ∧
      SameOutside h s t ∧ SameMemory s t ∧ t.pins = s.pins ∧ t.irqMasked = s.irqMasked ∧ t.trace = s.trace)
end

