-- ==== Sys2Proof/Laws/State.lean ====
section
/-! SUPPORT. One lemma per field per update of State (each true by rfl), and the accessors after each update. -/

namespace Sys2Proof.Machine

variable (s : State)

/-! ### modInst -/

@[simp] theorem State.modInst_params (h : Handle) (f : Inst → Inst) : (s.modInst h f).params = s.params := rfl
@[simp] theorem State.modInst_insts (h : Handle) (f : Inst → Inst) : (s.modInst h f).insts = s.insts.modify h.toNat f := rfl
@[simp] theorem State.modInst_wake (h : Handle) (f : Inst → Inst) : (s.modInst h f).wake = s.wake := rfl
@[simp] theorem State.modInst_task (h : Handle) (f : Inst → Inst) : (s.modInst h f).task = s.task := rfl
@[simp] theorem State.modInst_halted (h : Handle) (f : Inst → Inst) : (s.modInst h f).halted = s.halted := rfl
@[simp] theorem State.modInst_haltCause (h : Handle) (f : Inst → Inst) : (s.modInst h f).haltCause = s.haltCause := rfl
@[simp] theorem State.modInst_haltH (h : Handle) (f : Inst → Inst) : (s.modInst h f).haltH = s.haltH := rfl
@[simp] theorem State.modInst_irqMasked (h : Handle) (f : Inst → Inst) : (s.modInst h f).irqMasked = s.irqMasked := rfl
@[simp] theorem State.modInst_pins (h : Handle) (f : Inst → Inst) : (s.modInst h f).pins = s.pins := rfl
@[simp] theorem State.modInst_port (h : Handle) (f : Inst → Inst) : (s.modInst h f).port = s.port := rfl
@[simp] theorem State.modInst_sched (h : Handle) (f : Inst → Inst) : (s.modInst h f).sched = s.sched := rfl
@[simp] theorem State.modInst_env (h : Handle) (f : Inst → Inst) : (s.modInst h f).env = s.env := rfl
@[simp] theorem State.modInst_trace (h : Handle) (f : Inst → Inst) : (s.modInst h f).trace = s.trace := rfl
@[simp] theorem State.modInst_ret (h : Handle) (f : Inst → Inst) : (s.modInst h f).ret = s.ret := rfl
@[simp] theorem State.modInst_pinLevel (h : Handle) (f : Inst → Inst) (q : PinId) : (s.modInst h f).pinLevel q = s.pinLevel q := rfl
@[simp] theorem State.modInst_tickAt (h : Handle) (f : Inst → Inst) (k : Nat) : (s.modInst h f).tickAt k = s.tickAt k := rfl
@[simp] theorem State.modInst_levelAt (h : Handle) (f : Inst → Inst) (q : PinId) (k : Nat) : (s.modInst h f).levelAt q k = s.levelAt q k := rfl
@[simp] theorem State.modInst_spiAt (h : Handle) (f : Inst → Inst) (q : PinId) (k : Nat) : (s.modInst h f).spiAt q k = s.spiAt q k := rfl
@[simp] theorem State.modInst_nextTick (h : Handle) (f : Inst → Inst) : (s.modInst h f).nextTick = s.nextTick := rfl
@[simp] theorem State.modInst_nextLevel (h : Handle) (f : Inst → Inst) (q : PinId) : (s.modInst h f).nextLevel q = s.nextLevel q := rfl
@[simp] theorem State.modInst_nextSpi (h : Handle) (f : Inst → Inst) (q : PinId) : (s.modInst h f).nextSpi q = s.nextSpi q := rfl

/-! ### log -/

@[simp] theorem State.log_params (e : Event) : (s.log e).params = s.params := rfl
@[simp] theorem State.log_insts (e : Event) : (s.log e).insts = s.insts := rfl
@[simp] theorem State.log_wake (e : Event) : (s.log e).wake = s.wake := rfl
@[simp] theorem State.log_task (e : Event) : (s.log e).task = s.task := rfl
@[simp] theorem State.log_halted (e : Event) : (s.log e).halted = s.halted := rfl
@[simp] theorem State.log_haltCause (e : Event) : (s.log e).haltCause = s.haltCause := rfl
@[simp] theorem State.log_haltH (e : Event) : (s.log e).haltH = s.haltH := rfl
@[simp] theorem State.log_irqMasked (e : Event) : (s.log e).irqMasked = s.irqMasked := rfl
@[simp] theorem State.log_pins (e : Event) : (s.log e).pins = s.pins := rfl
@[simp] theorem State.log_port (e : Event) : (s.log e).port = s.port := rfl
@[simp] theorem State.log_sched (e : Event) : (s.log e).sched = s.sched := rfl
@[simp] theorem State.log_env (e : Event) : (s.log e).env = s.env := rfl
@[simp] theorem State.log_trace (e : Event) : (s.log e).trace = s.trace ++ [e] := rfl
@[simp] theorem State.log_ret (e : Event) : (s.log e).ret = s.ret := rfl
@[simp] theorem State.log_inst (e : Event) (k : Handle) : (s.log e).inst k = s.inst k := rfl
@[simp] theorem State.log_byteAt (e : Event) (k : Handle) (x : Nat) : (s.log e).byteAt k x = s.byteAt k x := rfl
@[simp] theorem State.log_nInst (e : Event) : (s.log e).nInst = s.nInst := (rfl)
@[simp] theorem State.log_pinLevel (e : Event) (q : PinId) : (s.log e).pinLevel q = s.pinLevel q := rfl
@[simp] theorem State.log_tickAt (e : Event) (k : Nat) : (s.log e).tickAt k = s.tickAt k := rfl
@[simp] theorem State.log_levelAt (e : Event) (q : PinId) (k : Nat) : (s.log e).levelAt q k = s.levelAt q k := rfl
@[simp] theorem State.log_spiAt (e : Event) (q : PinId) (k : Nat) : (s.log e).spiAt q k = s.spiAt q k := rfl
@[simp] theorem State.log_nextTick (e : Event) : (s.log e).nextTick = s.nextTick := rfl
@[simp] theorem State.log_nextLevel (e : Event) (q : PinId) : (s.log e).nextLevel q = s.nextLevel q := rfl
@[simp] theorem State.log_nextSpi (e : Event) (q : PinId) : (s.log e).nextSpi q = s.nextSpi q := rfl

/-! ### setRet -/

@[simp] theorem State.setRet_params (r : Ret) : (s.setRet r).params = s.params := rfl
@[simp] theorem State.setRet_insts (r : Ret) : (s.setRet r).insts = s.insts := rfl
@[simp] theorem State.setRet_wake (r : Ret) : (s.setRet r).wake = s.wake := rfl
@[simp] theorem State.setRet_task (r : Ret) : (s.setRet r).task = s.task := rfl
@[simp] theorem State.setRet_halted (r : Ret) : (s.setRet r).halted = s.halted := rfl
@[simp] theorem State.setRet_haltCause (r : Ret) : (s.setRet r).haltCause = s.haltCause := rfl
@[simp] theorem State.setRet_haltH (r : Ret) : (s.setRet r).haltH = s.haltH := rfl
@[simp] theorem State.setRet_irqMasked (r : Ret) : (s.setRet r).irqMasked = s.irqMasked := rfl
@[simp] theorem State.setRet_pins (r : Ret) : (s.setRet r).pins = s.pins := rfl
@[simp] theorem State.setRet_port (r : Ret) : (s.setRet r).port = s.port := rfl
@[simp] theorem State.setRet_sched (r : Ret) : (s.setRet r).sched = s.sched := rfl
@[simp] theorem State.setRet_env (r : Ret) : (s.setRet r).env = s.env := rfl
@[simp] theorem State.setRet_trace (r : Ret) : (s.setRet r).trace = s.trace := rfl
@[simp] theorem State.setRet_ret (r : Ret) : (s.setRet r).ret = r := rfl
@[simp] theorem State.setRet_inst (r : Ret) (k : Handle) : (s.setRet r).inst k = s.inst k := rfl
@[simp] theorem State.setRet_byteAt (r : Ret) (k : Handle) (x : Nat) : (s.setRet r).byteAt k x = s.byteAt k x := rfl
@[simp] theorem State.setRet_nInst (r : Ret) : (s.setRet r).nInst = s.nInst := (rfl)
@[simp] theorem State.setRet_pinLevel (r : Ret) (q : PinId) : (s.setRet r).pinLevel q = s.pinLevel q := rfl
@[simp] theorem State.setRet_tickAt (r : Ret) (k : Nat) : (s.setRet r).tickAt k = s.tickAt k := rfl
@[simp] theorem State.setRet_levelAt (r : Ret) (q : PinId) (k : Nat) : (s.setRet r).levelAt q k = s.levelAt q k := rfl
@[simp] theorem State.setRet_spiAt (r : Ret) (q : PinId) (k : Nat) : (s.setRet r).spiAt q k = s.spiAt q k := rfl
@[simp] theorem State.setRet_nextTick (r : Ret) : (s.setRet r).nextTick = s.nextTick := rfl
@[simp] theorem State.setRet_nextLevel (r : Ret) (q : PinId) : (s.setRet r).nextLevel q = s.nextLevel q := rfl
@[simp] theorem State.setRet_nextSpi (r : Ret) (q : PinId) : (s.setRet r).nextSpi q = s.nextSpi q := rfl

/-! ### setPin -/

@[simp] theorem State.setPin_params (p : PinId) (b : Bool) : (s.setPin p b).params = s.params := rfl
@[simp] theorem State.setPin_insts (p : PinId) (b : Bool) : (s.setPin p b).insts = s.insts := rfl
@[simp] theorem State.setPin_wake (p : PinId) (b : Bool) : (s.setPin p b).wake = s.wake := rfl
@[simp] theorem State.setPin_task (p : PinId) (b : Bool) : (s.setPin p b).task = s.task := rfl
@[simp] theorem State.setPin_halted (p : PinId) (b : Bool) : (s.setPin p b).halted = s.halted := rfl
@[simp] theorem State.setPin_haltCause (p : PinId) (b : Bool) : (s.setPin p b).haltCause = s.haltCause := rfl
@[simp] theorem State.setPin_haltH (p : PinId) (b : Bool) : (s.setPin p b).haltH = s.haltH := rfl
@[simp] theorem State.setPin_irqMasked (p : PinId) (b : Bool) : (s.setPin p b).irqMasked = s.irqMasked := rfl
@[simp] theorem State.setPin_pins (p : PinId) (b : Bool) : (s.setPin p b).pins = assocSet s.pins p.toNat b := rfl
@[simp] theorem State.setPin_port (p : PinId) (b : Bool) : (s.setPin p b).port = s.port := rfl
@[simp] theorem State.setPin_sched (p : PinId) (b : Bool) : (s.setPin p b).sched = s.sched := rfl
@[simp] theorem State.setPin_env (p : PinId) (b : Bool) : (s.setPin p b).env = s.env := rfl
@[simp] theorem State.setPin_trace (p : PinId) (b : Bool) : (s.setPin p b).trace = s.trace := rfl
@[simp] theorem State.setPin_ret (p : PinId) (b : Bool) : (s.setPin p b).ret = s.ret := rfl
@[simp] theorem State.setPin_inst (p : PinId) (b : Bool) (k : Handle) : (s.setPin p b).inst k = s.inst k := rfl
@[simp] theorem State.setPin_byteAt (p : PinId) (b : Bool) (k : Handle) (x : Nat) : (s.setPin p b).byteAt k x = s.byteAt k x := rfl
@[simp] theorem State.setPin_nInst (p : PinId) (b : Bool) : (s.setPin p b).nInst = s.nInst := (rfl)
@[simp] theorem State.setPin_tickAt (p : PinId) (b : Bool) (k : Nat) : (s.setPin p b).tickAt k = s.tickAt k := rfl
@[simp] theorem State.setPin_levelAt (p : PinId) (b : Bool) (q : PinId) (k : Nat) : (s.setPin p b).levelAt q k = s.levelAt q k := rfl
@[simp] theorem State.setPin_spiAt (p : PinId) (b : Bool) (q : PinId) (k : Nat) : (s.setPin p b).spiAt q k = s.spiAt q k := rfl
@[simp] theorem State.setPin_nextTick (p : PinId) (b : Bool) : (s.setPin p b).nextTick = s.nextTick := rfl
@[simp] theorem State.setPin_nextLevel (p : PinId) (b : Bool) (q : PinId) : (s.setPin p b).nextLevel q = s.nextLevel q := rfl
@[simp] theorem State.setPin_nextSpi (p : PinId) (b : Bool) (q : PinId) : (s.setPin p b).nextSpi q = s.nextSpi q := rfl

/-! ### takeCommand -/

@[simp] theorem State.takeCommand_params : (s.takeCommand).params = s.params := rfl
@[simp] theorem State.takeCommand_insts : (s.takeCommand).insts = s.insts := rfl
@[simp] theorem State.takeCommand_wake : (s.takeCommand).wake = s.wake := rfl
@[simp] theorem State.takeCommand_task : (s.takeCommand).task = s.task := rfl
@[simp] theorem State.takeCommand_halted : (s.takeCommand).halted = s.halted := rfl
@[simp] theorem State.takeCommand_haltCause : (s.takeCommand).haltCause = s.haltCause := rfl
@[simp] theorem State.takeCommand_haltH : (s.takeCommand).haltH = s.haltH := rfl
@[simp] theorem State.takeCommand_irqMasked : (s.takeCommand).irqMasked = s.irqMasked := rfl
@[simp] theorem State.takeCommand_pins : (s.takeCommand).pins = s.pins := rfl
@[simp] theorem State.takeCommand_port : (s.takeCommand).port = s.port.tail := rfl
@[simp] theorem State.takeCommand_sched : (s.takeCommand).sched = s.sched := rfl
@[simp] theorem State.takeCommand_env : (s.takeCommand).env = s.env := rfl
@[simp] theorem State.takeCommand_trace : (s.takeCommand).trace = s.trace := rfl
@[simp] theorem State.takeCommand_ret : (s.takeCommand).ret = s.ret := rfl
@[simp] theorem State.takeCommand_inst (k : Handle) : (s.takeCommand).inst k = s.inst k := rfl
@[simp] theorem State.takeCommand_byteAt (k : Handle) (x : Nat) : (s.takeCommand).byteAt k x = s.byteAt k x := rfl
@[simp] theorem State.takeCommand_nInst : (s.takeCommand).nInst = s.nInst := (rfl)
@[simp] theorem State.takeCommand_pinLevel (q : PinId) : (s.takeCommand).pinLevel q = s.pinLevel q := rfl
@[simp] theorem State.takeCommand_tickAt (k : Nat) : (s.takeCommand).tickAt k = s.tickAt k := rfl
@[simp] theorem State.takeCommand_levelAt (q : PinId) (k : Nat) : (s.takeCommand).levelAt q k = s.levelAt q k := rfl
@[simp] theorem State.takeCommand_spiAt (q : PinId) (k : Nat) : (s.takeCommand).spiAt q k = s.spiAt q k := rfl
@[simp] theorem State.takeCommand_nextTick : (s.takeCommand).nextTick = s.nextTick := rfl
@[simp] theorem State.takeCommand_nextLevel (q : PinId) : (s.takeCommand).nextLevel q = s.nextLevel q := rfl
@[simp] theorem State.takeCommand_nextSpi (q : PinId) : (s.takeCommand).nextSpi q = s.nextSpi q := rfl

/-! ### useTick -/

@[simp] theorem State.useTick_params : (s.useTick).params = s.params := rfl
@[simp] theorem State.useTick_insts : (s.useTick).insts = s.insts := rfl
@[simp] theorem State.useTick_wake : (s.useTick).wake = s.wake := rfl
@[simp] theorem State.useTick_task : (s.useTick).task = s.task := rfl
@[simp] theorem State.useTick_halted : (s.useTick).halted = s.halted := rfl
@[simp] theorem State.useTick_haltCause : (s.useTick).haltCause = s.haltCause := rfl
@[simp] theorem State.useTick_haltH : (s.useTick).haltH = s.haltH := rfl
@[simp] theorem State.useTick_irqMasked : (s.useTick).irqMasked = s.irqMasked := rfl
@[simp] theorem State.useTick_pins : (s.useTick).pins = s.pins := rfl
@[simp] theorem State.useTick_port : (s.useTick).port = s.port := rfl
@[simp] theorem State.useTick_sched : (s.useTick).sched = s.sched := rfl
@[simp] theorem State.useTick_env : (s.useTick).env = { s.env with tickPos := s.env.tickPos + 1 } := rfl
@[simp] theorem State.useTick_trace : (s.useTick).trace = s.trace := rfl
@[simp] theorem State.useTick_ret : (s.useTick).ret = s.ret := rfl
@[simp] theorem State.useTick_inst (k : Handle) : (s.useTick).inst k = s.inst k := rfl
@[simp] theorem State.useTick_byteAt (k : Handle) (x : Nat) : (s.useTick).byteAt k x = s.byteAt k x := rfl
@[simp] theorem State.useTick_nInst : (s.useTick).nInst = s.nInst := (rfl)
@[simp] theorem State.useTick_pinLevel (q : PinId) : (s.useTick).pinLevel q = s.pinLevel q := rfl
@[simp] theorem State.useTick_tickAt (k : Nat) : (s.useTick).tickAt k = s.tickAt k := rfl
@[simp] theorem State.useTick_levelAt (q : PinId) (k : Nat) : (s.useTick).levelAt q k = s.levelAt q k := rfl
@[simp] theorem State.useTick_spiAt (q : PinId) (k : Nat) : (s.useTick).spiAt q k = s.spiAt q k := rfl
@[simp] theorem State.useTick_nextTick : (s.useTick).nextTick = s.tickAt (s.env.tickPos + 1) := rfl
@[simp] theorem State.useTick_nextLevel (q : PinId) : (s.useTick).nextLevel q = s.nextLevel q := rfl
@[simp] theorem State.useTick_nextSpi (q : PinId) : (s.useTick).nextSpi q = s.nextSpi q := rfl

/-! ### useLevel -/

@[simp] theorem State.useLevel_params : (s.useLevel).params = s.params := rfl
@[simp] theorem State.useLevel_insts : (s.useLevel).insts = s.insts := rfl
@[simp] theorem State.useLevel_wake : (s.useLevel).wake = s.wake := rfl
@[simp] theorem State.useLevel_task : (s.useLevel).task = s.task := rfl
@[simp] theorem State.useLevel_halted : (s.useLevel).halted = s.halted := rfl
@[simp] theorem State.useLevel_haltCause : (s.useLevel).haltCause = s.haltCause := rfl
@[simp] theorem State.useLevel_haltH : (s.useLevel).haltH = s.haltH := rfl
@[simp] theorem State.useLevel_irqMasked : (s.useLevel).irqMasked = s.irqMasked := rfl
@[simp] theorem State.useLevel_pins : (s.useLevel).pins = s.pins := rfl
@[simp] theorem State.useLevel_port : (s.useLevel).port = s.port := rfl
@[simp] theorem State.useLevel_sched : (s.useLevel).sched = s.sched := rfl
@[simp] theorem State.useLevel_env : (s.useLevel).env = { s.env with levelPos := s.env.levelPos + 1 } := rfl
@[simp] theorem State.useLevel_trace : (s.useLevel).trace = s.trace := rfl
@[simp] theorem State.useLevel_ret : (s.useLevel).ret = s.ret := rfl
@[simp] theorem State.useLevel_inst (k : Handle) : (s.useLevel).inst k = s.inst k := rfl
@[simp] theorem State.useLevel_byteAt (k : Handle) (x : Nat) : (s.useLevel).byteAt k x = s.byteAt k x := rfl
@[simp] theorem State.useLevel_nInst : (s.useLevel).nInst = s.nInst := (rfl)
@[simp] theorem State.useLevel_pinLevel (q : PinId) : (s.useLevel).pinLevel q = s.pinLevel q := rfl
@[simp] theorem State.useLevel_tickAt (k : Nat) : (s.useLevel).tickAt k = s.tickAt k := rfl
@[simp] theorem State.useLevel_levelAt (q : PinId) (k : Nat) : (s.useLevel).levelAt q k = s.levelAt q k := rfl
@[simp] theorem State.useLevel_spiAt (q : PinId) (k : Nat) : (s.useLevel).spiAt q k = s.spiAt q k := rfl
@[simp] theorem State.useLevel_nextTick : (s.useLevel).nextTick = s.nextTick := rfl
@[simp] theorem State.useLevel_nextLevel (q : PinId) : (s.useLevel).nextLevel q = s.levelAt q (s.env.levelPos + 1) := rfl
@[simp] theorem State.useLevel_nextSpi (q : PinId) : (s.useLevel).nextSpi q = s.nextSpi q := rfl

/-! ### useSpi -/

@[simp] theorem State.useSpi_params : (s.useSpi).params = s.params := rfl
@[simp] theorem State.useSpi_insts : (s.useSpi).insts = s.insts := rfl
@[simp] theorem State.useSpi_wake : (s.useSpi).wake = s.wake := rfl
@[simp] theorem State.useSpi_task : (s.useSpi).task = s.task := rfl
@[simp] theorem State.useSpi_halted : (s.useSpi).halted = s.halted := rfl
@[simp] theorem State.useSpi_haltCause : (s.useSpi).haltCause = s.haltCause := rfl
@[simp] theorem State.useSpi_haltH : (s.useSpi).haltH = s.haltH := rfl
@[simp] theorem State.useSpi_irqMasked : (s.useSpi).irqMasked = s.irqMasked := rfl
@[simp] theorem State.useSpi_pins : (s.useSpi).pins = s.pins := rfl
@[simp] theorem State.useSpi_port : (s.useSpi).port = s.port := rfl
@[simp] theorem State.useSpi_sched : (s.useSpi).sched = s.sched := rfl
@[simp] theorem State.useSpi_env : (s.useSpi).env = { s.env with spiPos := s.env.spiPos + 1 } := rfl
@[simp] theorem State.useSpi_trace : (s.useSpi).trace = s.trace := rfl
@[simp] theorem State.useSpi_ret : (s.useSpi).ret = s.ret := rfl
@[simp] theorem State.useSpi_inst (k : Handle) : (s.useSpi).inst k = s.inst k := rfl
@[simp] theorem State.useSpi_byteAt (k : Handle) (x : Nat) : (s.useSpi).byteAt k x = s.byteAt k x := rfl
@[simp] theorem State.useSpi_nInst : (s.useSpi).nInst = s.nInst := (rfl)
@[simp] theorem State.useSpi_pinLevel (q : PinId) : (s.useSpi).pinLevel q = s.pinLevel q := rfl
@[simp] theorem State.useSpi_tickAt (k : Nat) : (s.useSpi).tickAt k = s.tickAt k := rfl
@[simp] theorem State.useSpi_levelAt (q : PinId) (k : Nat) : (s.useSpi).levelAt q k = s.levelAt q k := rfl
@[simp] theorem State.useSpi_spiAt (q : PinId) (k : Nat) : (s.useSpi).spiAt q k = s.spiAt q k := rfl
@[simp] theorem State.useSpi_nextTick : (s.useSpi).nextTick = s.nextTick := rfl
@[simp] theorem State.useSpi_nextLevel (q : PinId) : (s.useSpi).nextLevel q = s.nextLevel q := rfl
@[simp] theorem State.useSpi_nextSpi (q : PinId) : (s.useSpi).nextSpi q = s.spiAt q (s.env.spiPos + 1) := rfl

/-! ### now -/

@[simp] theorem State.now_params : (s.now).params = s.params := rfl
@[simp] theorem State.now_insts : (s.now).insts = s.insts := rfl
@[simp] theorem State.now_wake : (s.now).wake = s.wake := rfl
@[simp] theorem State.now_task : (s.now).task = s.task := rfl
@[simp] theorem State.now_halted : (s.now).halted = s.halted := rfl
@[simp] theorem State.now_haltCause : (s.now).haltCause = s.haltCause := rfl
@[simp] theorem State.now_haltH : (s.now).haltH = s.haltH := rfl
@[simp] theorem State.now_irqMasked : (s.now).irqMasked = s.irqMasked := rfl
@[simp] theorem State.now_pins : (s.now).pins = s.pins := rfl
@[simp] theorem State.now_port : (s.now).port = s.port := rfl
@[simp] theorem State.now_sched : (s.now).sched = s.sched := rfl
@[simp] theorem State.now_env : (s.now).env = { s.env with tickPos := s.env.tickPos + 1 } := rfl
@[simp] theorem State.now_trace : (s.now).trace = s.trace ++ [.now s.nextTick] := rfl
@[simp] theorem State.now_ret : (s.now).ret = s.ret := rfl
@[simp] theorem State.now_inst (k : Handle) : (s.now).inst k = s.inst k := rfl
@[simp] theorem State.now_byteAt (k : Handle) (x : Nat) : (s.now).byteAt k x = s.byteAt k x := rfl
@[simp] theorem State.now_nInst : (s.now).nInst = s.nInst := (rfl)
@[simp] theorem State.now_pinLevel (q : PinId) : (s.now).pinLevel q = s.pinLevel q := rfl
@[simp] theorem State.now_tickAt (k : Nat) : (s.now).tickAt k = s.tickAt k := rfl
@[simp] theorem State.now_levelAt (q : PinId) (k : Nat) : (s.now).levelAt q k = s.levelAt q k := rfl
@[simp] theorem State.now_spiAt (q : PinId) (k : Nat) : (s.now).spiAt q k = s.spiAt q k := rfl
@[simp] theorem State.now_nextTick : (s.now).nextTick = s.tickAt (s.env.tickPos + 1) := rfl
@[simp] theorem State.now_nextLevel (q : PinId) : (s.now).nextLevel q = s.nextLevel q := rfl
@[simp] theorem State.now_nextSpi (q : PinId) : (s.now).nextSpi q = s.nextSpi q := rfl

/-! ### pinRead -/

@[simp] theorem State.pinRead_params (p : PinId) : (s.pinRead p).params = s.params := rfl
@[simp] theorem State.pinRead_insts (p : PinId) : (s.pinRead p).insts = s.insts := rfl
@[simp] theorem State.pinRead_wake (p : PinId) : (s.pinRead p).wake = s.wake := rfl
@[simp] theorem State.pinRead_task (p : PinId) : (s.pinRead p).task = s.task := rfl
@[simp] theorem State.pinRead_halted (p : PinId) : (s.pinRead p).halted = s.halted := rfl
@[simp] theorem State.pinRead_haltCause (p : PinId) : (s.pinRead p).haltCause = s.haltCause := rfl
@[simp] theorem State.pinRead_haltH (p : PinId) : (s.pinRead p).haltH = s.haltH := rfl
@[simp] theorem State.pinRead_irqMasked (p : PinId) : (s.pinRead p).irqMasked = s.irqMasked := rfl
@[simp] theorem State.pinRead_pins (p : PinId) : (s.pinRead p).pins = s.pins := rfl
@[simp] theorem State.pinRead_port (p : PinId) : (s.pinRead p).port = s.port := rfl
@[simp] theorem State.pinRead_sched (p : PinId) : (s.pinRead p).sched = s.sched := rfl
@[simp] theorem State.pinRead_env (p : PinId) : (s.pinRead p).env = { s.env with levelPos := s.env.levelPos + 1 } := rfl
@[simp] theorem State.pinRead_trace (p : PinId) : (s.pinRead p).trace = s.trace ++ [.pinRead p (s.nextLevel p)] := rfl
@[simp] theorem State.pinRead_ret (p : PinId) : (s.pinRead p).ret = s.ret := rfl
@[simp] theorem State.pinRead_inst (p : PinId) (k : Handle) : (s.pinRead p).inst k = s.inst k := rfl
@[simp] theorem State.pinRead_byteAt (p : PinId) (k : Handle) (x : Nat) : (s.pinRead p).byteAt k x = s.byteAt k x := rfl
@[simp] theorem State.pinRead_nInst (p : PinId) : (s.pinRead p).nInst = s.nInst := (rfl)
@[simp] theorem State.pinRead_pinLevel (p : PinId) (q : PinId) : (s.pinRead p).pinLevel q = s.pinLevel q := rfl
@[simp] theorem State.pinRead_tickAt (p : PinId) (k : Nat) : (s.pinRead p).tickAt k = s.tickAt k := rfl
@[simp] theorem State.pinRead_levelAt (p : PinId) (q : PinId) (k : Nat) : (s.pinRead p).levelAt q k = s.levelAt q k := rfl
@[simp] theorem State.pinRead_spiAt (p : PinId) (q : PinId) (k : Nat) : (s.pinRead p).spiAt q k = s.spiAt q k := rfl
@[simp] theorem State.pinRead_nextTick (p : PinId) : (s.pinRead p).nextTick = s.nextTick := rfl
@[simp] theorem State.pinRead_nextLevel (p : PinId) (q : PinId) : (s.pinRead p).nextLevel q = s.levelAt q (s.env.levelPos + 1) := rfl
@[simp] theorem State.pinRead_nextSpi (p : PinId) (q : PinId) : (s.pinRead p).nextSpi q = s.nextSpi q := rfl

/-! ### pinWrite -/

@[simp] theorem State.pinWrite_params (p : PinId) (b : Bool) : (s.pinWrite p b).params = s.params := rfl
@[simp] theorem State.pinWrite_insts (p : PinId) (b : Bool) : (s.pinWrite p b).insts = s.insts := rfl
@[simp] theorem State.pinWrite_wake (p : PinId) (b : Bool) : (s.pinWrite p b).wake = s.wake := rfl
@[simp] theorem State.pinWrite_task (p : PinId) (b : Bool) : (s.pinWrite p b).task = s.task := rfl
@[simp] theorem State.pinWrite_halted (p : PinId) (b : Bool) : (s.pinWrite p b).halted = s.halted := rfl
@[simp] theorem State.pinWrite_haltCause (p : PinId) (b : Bool) : (s.pinWrite p b).haltCause = s.haltCause := rfl
@[simp] theorem State.pinWrite_haltH (p : PinId) (b : Bool) : (s.pinWrite p b).haltH = s.haltH := rfl
@[simp] theorem State.pinWrite_irqMasked (p : PinId) (b : Bool) : (s.pinWrite p b).irqMasked = s.irqMasked := rfl
@[simp] theorem State.pinWrite_pins (p : PinId) (b : Bool) : (s.pinWrite p b).pins = assocSet s.pins p.toNat b := rfl
@[simp] theorem State.pinWrite_port (p : PinId) (b : Bool) : (s.pinWrite p b).port = s.port := rfl
@[simp] theorem State.pinWrite_sched (p : PinId) (b : Bool) : (s.pinWrite p b).sched = s.sched := rfl
@[simp] theorem State.pinWrite_env (p : PinId) (b : Bool) : (s.pinWrite p b).env = s.env := rfl
@[simp] theorem State.pinWrite_trace (p : PinId) (b : Bool) : (s.pinWrite p b).trace = s.trace ++ [.pinWrite p b] := rfl
@[simp] theorem State.pinWrite_ret (p : PinId) (b : Bool) : (s.pinWrite p b).ret = s.ret := rfl
@[simp] theorem State.pinWrite_inst (p : PinId) (b : Bool) (k : Handle) : (s.pinWrite p b).inst k = s.inst k := rfl
@[simp] theorem State.pinWrite_byteAt (p : PinId) (b : Bool) (k : Handle) (x : Nat) : (s.pinWrite p b).byteAt k x = s.byteAt k x := rfl
@[simp] theorem State.pinWrite_nInst (p : PinId) (b : Bool) : (s.pinWrite p b).nInst = s.nInst := (rfl)
@[simp] theorem State.pinWrite_tickAt (p : PinId) (b : Bool) (k : Nat) : (s.pinWrite p b).tickAt k = s.tickAt k := rfl
@[simp] theorem State.pinWrite_levelAt (p : PinId) (b : Bool) (q : PinId) (k : Nat) : (s.pinWrite p b).levelAt q k = s.levelAt q k := rfl
@[simp] theorem State.pinWrite_spiAt (p : PinId) (b : Bool) (q : PinId) (k : Nat) : (s.pinWrite p b).spiAt q k = s.spiAt q k := rfl
@[simp] theorem State.pinWrite_nextTick (p : PinId) (b : Bool) : (s.pinWrite p b).nextTick = s.nextTick := rfl
@[simp] theorem State.pinWrite_nextLevel (p : PinId) (b : Bool) (q : PinId) : (s.pinWrite p b).nextLevel q = s.nextLevel q := rfl
@[simp] theorem State.pinWrite_nextSpi (p : PinId) (b : Bool) (q : PinId) : (s.pinWrite p b).nextSpi q = s.nextSpi q := rfl

/-! ### waitAtLeast -/

@[simp] theorem State.waitAtLeast_params (ns : Nat) : (s.waitAtLeast ns).params = s.params := rfl
@[simp] theorem State.waitAtLeast_insts (ns : Nat) : (s.waitAtLeast ns).insts = s.insts := rfl
@[simp] theorem State.waitAtLeast_wake (ns : Nat) : (s.waitAtLeast ns).wake = s.wake := rfl
@[simp] theorem State.waitAtLeast_task (ns : Nat) : (s.waitAtLeast ns).task = s.task := rfl
@[simp] theorem State.waitAtLeast_halted (ns : Nat) : (s.waitAtLeast ns).halted = s.halted := rfl
@[simp] theorem State.waitAtLeast_haltCause (ns : Nat) : (s.waitAtLeast ns).haltCause = s.haltCause := rfl
@[simp] theorem State.waitAtLeast_haltH (ns : Nat) : (s.waitAtLeast ns).haltH = s.haltH := rfl
@[simp] theorem State.waitAtLeast_irqMasked (ns : Nat) : (s.waitAtLeast ns).irqMasked = s.irqMasked := rfl
@[simp] theorem State.waitAtLeast_pins (ns : Nat) : (s.waitAtLeast ns).pins = s.pins := rfl
@[simp] theorem State.waitAtLeast_port (ns : Nat) : (s.waitAtLeast ns).port = s.port := rfl
@[simp] theorem State.waitAtLeast_sched (ns : Nat) : (s.waitAtLeast ns).sched = s.sched := rfl
@[simp] theorem State.waitAtLeast_env (ns : Nat) : (s.waitAtLeast ns).env = s.env := rfl
@[simp] theorem State.waitAtLeast_trace (ns : Nat) : (s.waitAtLeast ns).trace = s.trace ++ [.waitAtLeast ns] := rfl
@[simp] theorem State.waitAtLeast_ret (ns : Nat) : (s.waitAtLeast ns).ret = s.ret := rfl
@[simp] theorem State.waitAtLeast_inst (ns : Nat) (k : Handle) : (s.waitAtLeast ns).inst k = s.inst k := rfl
@[simp] theorem State.waitAtLeast_byteAt (ns : Nat) (k : Handle) (x : Nat) : (s.waitAtLeast ns).byteAt k x = s.byteAt k x := rfl
@[simp] theorem State.waitAtLeast_nInst (ns : Nat) : (s.waitAtLeast ns).nInst = s.nInst := (rfl)
@[simp] theorem State.waitAtLeast_pinLevel (ns : Nat) (q : PinId) : (s.waitAtLeast ns).pinLevel q = s.pinLevel q := rfl
@[simp] theorem State.waitAtLeast_tickAt (ns : Nat) (k : Nat) : (s.waitAtLeast ns).tickAt k = s.tickAt k := rfl
@[simp] theorem State.waitAtLeast_levelAt (ns : Nat) (q : PinId) (k : Nat) : (s.waitAtLeast ns).levelAt q k = s.levelAt q k := rfl
@[simp] theorem State.waitAtLeast_spiAt (ns : Nat) (q : PinId) (k : Nat) : (s.waitAtLeast ns).spiAt q k = s.spiAt q k := rfl
@[simp] theorem State.waitAtLeast_nextTick (ns : Nat) : (s.waitAtLeast ns).nextTick = s.nextTick := rfl
@[simp] theorem State.waitAtLeast_nextLevel (ns : Nat) (q : PinId) : (s.waitAtLeast ns).nextLevel q = s.nextLevel q := rfl
@[simp] theorem State.waitAtLeast_nextSpi (ns : Nat) (q : PinId) : (s.waitAtLeast ns).nextSpi q = s.nextSpi q := rfl

/-! ### spiXfer3 -/

@[simp] theorem State.spiXfer3_params (b : PinId) : (s.spiXfer3 b).params = s.params := rfl
@[simp] theorem State.spiXfer3_insts (b : PinId) : (s.spiXfer3 b).insts = s.insts := rfl
@[simp] theorem State.spiXfer3_wake (b : PinId) : (s.spiXfer3 b).wake = s.wake := rfl
@[simp] theorem State.spiXfer3_task (b : PinId) : (s.spiXfer3 b).task = s.task := rfl
@[simp] theorem State.spiXfer3_halted (b : PinId) : (s.spiXfer3 b).halted = s.halted := rfl
@[simp] theorem State.spiXfer3_haltCause (b : PinId) : (s.spiXfer3 b).haltCause = s.haltCause := rfl
@[simp] theorem State.spiXfer3_haltH (b : PinId) : (s.spiXfer3 b).haltH = s.haltH := rfl
@[simp] theorem State.spiXfer3_irqMasked (b : PinId) : (s.spiXfer3 b).irqMasked = s.irqMasked := rfl
@[simp] theorem State.spiXfer3_pins (b : PinId) : (s.spiXfer3 b).pins = s.pins := rfl
@[simp] theorem State.spiXfer3_port (b : PinId) : (s.spiXfer3 b).port = s.port := rfl
@[simp] theorem State.spiXfer3_sched (b : PinId) : (s.spiXfer3 b).sched = s.sched := rfl
@[simp] theorem State.spiXfer3_env (b : PinId) : (s.spiXfer3 b).env = { s.env with spiPos := s.env.spiPos + 1 } := rfl
@[simp] theorem State.spiXfer3_trace (b : PinId) : (s.spiXfer3 b).trace = s.trace ++ [.spiXfer b s.params.spiMode s.params.spiTx (s.nextSpi b)] := rfl
@[simp] theorem State.spiXfer3_ret (b : PinId) : (s.spiXfer3 b).ret = s.ret := rfl
@[simp] theorem State.spiXfer3_inst (b : PinId) (k : Handle) : (s.spiXfer3 b).inst k = s.inst k := rfl
@[simp] theorem State.spiXfer3_byteAt (b : PinId) (k : Handle) (x : Nat) : (s.spiXfer3 b).byteAt k x = s.byteAt k x := rfl
@[simp] theorem State.spiXfer3_nInst (b : PinId) : (s.spiXfer3 b).nInst = s.nInst := (rfl)
@[simp] theorem State.spiXfer3_pinLevel (b : PinId) (q : PinId) : (s.spiXfer3 b).pinLevel q = s.pinLevel q := rfl
@[simp] theorem State.spiXfer3_tickAt (b : PinId) (k : Nat) : (s.spiXfer3 b).tickAt k = s.tickAt k := rfl
@[simp] theorem State.spiXfer3_levelAt (b : PinId) (q : PinId) (k : Nat) : (s.spiXfer3 b).levelAt q k = s.levelAt q k := rfl
@[simp] theorem State.spiXfer3_spiAt (b : PinId) (q : PinId) (k : Nat) : (s.spiXfer3 b).spiAt q k = s.spiAt q k := rfl
@[simp] theorem State.spiXfer3_nextTick (b : PinId) : (s.spiXfer3 b).nextTick = s.nextTick := rfl
@[simp] theorem State.spiXfer3_nextLevel (b : PinId) (q : PinId) : (s.spiXfer3 b).nextLevel q = s.nextLevel q := rfl
@[simp] theorem State.spiXfer3_nextSpi (b : PinId) (q : PinId) : (s.spiXfer3 b).nextSpi q = s.spiAt q (s.env.spiPos + 1) := rfl

/-! ### irqMask -/

@[simp] theorem State.irqMask_params : (s.irqMask).params = s.params := rfl
@[simp] theorem State.irqMask_insts : (s.irqMask).insts = s.insts := rfl
@[simp] theorem State.irqMask_wake : (s.irqMask).wake = s.wake := rfl
@[simp] theorem State.irqMask_task : (s.irqMask).task = s.task := rfl
@[simp] theorem State.irqMask_halted : (s.irqMask).halted = s.halted := rfl
@[simp] theorem State.irqMask_haltCause : (s.irqMask).haltCause = s.haltCause := rfl
@[simp] theorem State.irqMask_haltH : (s.irqMask).haltH = s.haltH := rfl
@[simp] theorem State.irqMask_irqMasked : (s.irqMask).irqMasked = true := rfl
@[simp] theorem State.irqMask_pins : (s.irqMask).pins = s.pins := rfl
@[simp] theorem State.irqMask_port : (s.irqMask).port = s.port := rfl
@[simp] theorem State.irqMask_sched : (s.irqMask).sched = s.sched := rfl
@[simp] theorem State.irqMask_env : (s.irqMask).env = s.env := rfl
@[simp] theorem State.irqMask_trace : (s.irqMask).trace = s.trace ++ [.irqMask] := rfl
@[simp] theorem State.irqMask_ret : (s.irqMask).ret = s.ret := rfl
@[simp] theorem State.irqMask_inst (k : Handle) : (s.irqMask).inst k = s.inst k := rfl
@[simp] theorem State.irqMask_byteAt (k : Handle) (x : Nat) : (s.irqMask).byteAt k x = s.byteAt k x := rfl
@[simp] theorem State.irqMask_nInst : (s.irqMask).nInst = s.nInst := (rfl)
@[simp] theorem State.irqMask_pinLevel (q : PinId) : (s.irqMask).pinLevel q = s.pinLevel q := rfl
@[simp] theorem State.irqMask_tickAt (k : Nat) : (s.irqMask).tickAt k = s.tickAt k := rfl
@[simp] theorem State.irqMask_levelAt (q : PinId) (k : Nat) : (s.irqMask).levelAt q k = s.levelAt q k := rfl
@[simp] theorem State.irqMask_spiAt (q : PinId) (k : Nat) : (s.irqMask).spiAt q k = s.spiAt q k := rfl
@[simp] theorem State.irqMask_nextTick : (s.irqMask).nextTick = s.nextTick := rfl
@[simp] theorem State.irqMask_nextLevel (q : PinId) : (s.irqMask).nextLevel q = s.nextLevel q := rfl
@[simp] theorem State.irqMask_nextSpi (q : PinId) : (s.irqMask).nextSpi q = s.nextSpi q := rfl

/-! ### irqUnmask -/

@[simp] theorem State.irqUnmask_params : (s.irqUnmask).params = s.params := rfl
@[simp] theorem State.irqUnmask_insts : (s.irqUnmask).insts = s.insts := rfl
@[simp] theorem State.irqUnmask_wake : (s.irqUnmask).wake = s.wake := rfl
@[simp] theorem State.irqUnmask_task : (s.irqUnmask).task = s.task := rfl
@[simp] theorem State.irqUnmask_halted : (s.irqUnmask).halted = s.halted := rfl
@[simp] theorem State.irqUnmask_haltCause : (s.irqUnmask).haltCause = s.haltCause := rfl
@[simp] theorem State.irqUnmask_haltH : (s.irqUnmask).haltH = s.haltH := rfl
@[simp] theorem State.irqUnmask_irqMasked : (s.irqUnmask).irqMasked = false := rfl
@[simp] theorem State.irqUnmask_pins : (s.irqUnmask).pins = s.pins := rfl
@[simp] theorem State.irqUnmask_port : (s.irqUnmask).port = s.port := rfl
@[simp] theorem State.irqUnmask_sched : (s.irqUnmask).sched = s.sched := rfl
@[simp] theorem State.irqUnmask_env : (s.irqUnmask).env = s.env := rfl
@[simp] theorem State.irqUnmask_trace : (s.irqUnmask).trace = s.trace ++ [.irqUnmask] := rfl
@[simp] theorem State.irqUnmask_ret : (s.irqUnmask).ret = s.ret := rfl
@[simp] theorem State.irqUnmask_inst (k : Handle) : (s.irqUnmask).inst k = s.inst k := rfl
@[simp] theorem State.irqUnmask_byteAt (k : Handle) (x : Nat) : (s.irqUnmask).byteAt k x = s.byteAt k x := rfl
@[simp] theorem State.irqUnmask_nInst : (s.irqUnmask).nInst = s.nInst := (rfl)
@[simp] theorem State.irqUnmask_pinLevel (q : PinId) : (s.irqUnmask).pinLevel q = s.pinLevel q := rfl
@[simp] theorem State.irqUnmask_tickAt (k : Nat) : (s.irqUnmask).tickAt k = s.tickAt k := rfl
@[simp] theorem State.irqUnmask_levelAt (q : PinId) (k : Nat) : (s.irqUnmask).levelAt q k = s.levelAt q k := rfl
@[simp] theorem State.irqUnmask_spiAt (q : PinId) (k : Nat) : (s.irqUnmask).spiAt q k = s.spiAt q k := rfl
@[simp] theorem State.irqUnmask_nextTick : (s.irqUnmask).nextTick = s.nextTick := rfl
@[simp] theorem State.irqUnmask_nextLevel (q : PinId) : (s.irqUnmask).nextLevel q = s.nextLevel q := rfl
@[simp] theorem State.irqUnmask_nextSpi (q : PinId) : (s.irqUnmask).nextSpi q = s.nextSpi q := rfl

/-! ### raiseFatal -/

@[simp] theorem State.raiseFatal_params (h : Handle) (c : FatalCause) : (s.raiseFatal h c).params = s.params := rfl
@[simp] theorem State.raiseFatal_insts (h : Handle) (c : FatalCause) : (s.raiseFatal h c).insts = s.insts := rfl
@[simp] theorem State.raiseFatal_wake (h : Handle) (c : FatalCause) : (s.raiseFatal h c).wake = s.wake := rfl
@[simp] theorem State.raiseFatal_task (h : Handle) (c : FatalCause) : (s.raiseFatal h c).task = s.task := rfl
@[simp] theorem State.raiseFatal_halted (h : Handle) (c : FatalCause) : (s.raiseFatal h c).halted = true := rfl
@[simp] theorem State.raiseFatal_haltCause (h : Handle) (c : FatalCause) : (s.raiseFatal h c).haltCause = causeByte c := rfl
@[simp] theorem State.raiseFatal_haltH (h : Handle) (c : FatalCause) : (s.raiseFatal h c).haltH = h := rfl
@[simp] theorem State.raiseFatal_irqMasked (h : Handle) (c : FatalCause) : (s.raiseFatal h c).irqMasked = s.irqMasked := rfl
@[simp] theorem State.raiseFatal_pins (h : Handle) (c : FatalCause) : (s.raiseFatal h c).pins = s.pins := rfl
@[simp] theorem State.raiseFatal_port (h : Handle) (c : FatalCause) : (s.raiseFatal h c).port = s.port := rfl
@[simp] theorem State.raiseFatal_sched (h : Handle) (c : FatalCause) : (s.raiseFatal h c).sched = s.sched := rfl
@[simp] theorem State.raiseFatal_env (h : Handle) (c : FatalCause) : (s.raiseFatal h c).env = s.env := rfl
@[simp] theorem State.raiseFatal_trace (h : Handle) (c : FatalCause) : (s.raiseFatal h c).trace = s.trace := rfl
@[simp] theorem State.raiseFatal_ret (h : Handle) (c : FatalCause) : (s.raiseFatal h c).ret = s.ret := rfl
@[simp] theorem State.raiseFatal_inst (h : Handle) (c : FatalCause) (k : Handle) : (s.raiseFatal h c).inst k = s.inst k := rfl
@[simp] theorem State.raiseFatal_byteAt (h : Handle) (c : FatalCause) (k : Handle) (x : Nat) : (s.raiseFatal h c).byteAt k x = s.byteAt k x := rfl
@[simp] theorem State.raiseFatal_nInst (h : Handle) (c : FatalCause) : (s.raiseFatal h c).nInst = s.nInst := (rfl)
@[simp] theorem State.raiseFatal_pinLevel (h : Handle) (c : FatalCause) (q : PinId) : (s.raiseFatal h c).pinLevel q = s.pinLevel q := rfl
@[simp] theorem State.raiseFatal_tickAt (h : Handle) (c : FatalCause) (k : Nat) : (s.raiseFatal h c).tickAt k = s.tickAt k := rfl
@[simp] theorem State.raiseFatal_levelAt (h : Handle) (c : FatalCause) (q : PinId) (k : Nat) : (s.raiseFatal h c).levelAt q k = s.levelAt q k := rfl
@[simp] theorem State.raiseFatal_spiAt (h : Handle) (c : FatalCause) (q : PinId) (k : Nat) : (s.raiseFatal h c).spiAt q k = s.spiAt q k := rfl
@[simp] theorem State.raiseFatal_nextTick (h : Handle) (c : FatalCause) : (s.raiseFatal h c).nextTick = s.nextTick := rfl
@[simp] theorem State.raiseFatal_nextLevel (h : Handle) (c : FatalCause) (q : PinId) : (s.raiseFatal h c).nextLevel q = s.nextLevel q := rfl
@[simp] theorem State.raiseFatal_nextSpi (h : Handle) (c : FatalCause) (q : PinId) : (s.raiseFatal h c).nextSpi q = s.nextSpi q := rfl

/-! ### Instances -/

@[simp] theorem State.modInst_nInst (h : Handle) (f : Inst → Inst) : (s.modInst h f).nInst = s.nInst := by
  simp [State.nInst]

theorem State.modInst_inst_same {s : State} {h : Handle} {f : Inst → Inst} (hh : h.toNat < s.nInst) :
    (s.modInst h f).inst h = f (s.inst h) := by
  simp only [State.nInst] at hh
  simp [State.inst, hh]

theorem State.modInst_inst_other {s : State} {h k : Handle} {f : Inst → Inst} (hk : k ≠ h) :
    (s.modInst h f).inst k = s.inst k := by
  have hn : h.toNat ≠ k.toNat := fun e => hk (BitVec.eq_of_toNat_eq e.symm)
  simp [State.inst, hn]

/-- Two writes to one instance are one write. -/
theorem State.modInst_modInst (h : Handle) (f g : Inst → Inst) :
    (s.modInst h f).modInst h g = s.modInst h (g ∘ f) := by
  simp [State.modInst, List.modify_modify_eq]

/-- Writes to two instances may change places. -/
theorem State.modInst_comm {h k : Handle} (hk : k ≠ h) (f g : Inst → Inst) :
    (s.modInst h f).modInst k g = (s.modInst k g).modInst h f := by
  have hn : h.toNat ≠ k.toNat := fun e => hk (BitVec.eq_of_toNat_eq e.symm)
  simp [State.modInst, List.modify_modify_ne _ _ _ hn]

end Sys2Proof.Machine
end

