-- ==== Sys2Proof/Laws/Memory.lean ====
section
/-! SUPPORT. Sparse data by address: read after write, and the canonical form, which every memory operation keeps. -/

namespace Sys2Proof.Machine

variable {α : Type}

@[simp] theorem assocGet_nil (k : Nat) : assocGet ([] : List (Nat × α)) k = none := rfl

/-- Read after write. -/
theorem assocGet_assocSet (m : List (Nat × α)) (k j : Nat) (v : α) :
    assocGet (assocSet m k v) j = if j = k then some v else assocGet m j := by
  induction m with
  | nil => simp [assocSet, assocGet]
  | cons c m ih =>
    obtain ⟨k', v'⟩ := c
    unfold assocSet
    split
    · simp [assocGet]
    · split
      · simp only [assocGet]
        split <;> simp_all
      · rename_i hne
        simp only [assocGet, ih]
        by_cases hj : j = k'
        · rw [if_pos hj, if_pos hj, if_neg (by omega)]
        · rw [if_neg hj, if_neg hj]

/-- The keys after a write. -/
theorem mem_assocSet {m : List (Nat × α)} {k : Nat} {v : α} {c : Nat × α} (h : c ∈ assocSet m k v) :
    c = (k, v) ∨ c ∈ m := by
  induction m with
  | nil => simpa [assocSet] using h
  | cons d m ih =>
    obtain ⟨k', v'⟩ := d
    unfold assocSet at h
    split at h
    · simpa using h
    · split at h
      · rcases List.mem_cons.1 h with h | h
        · exact .inl h
        · exact .inr (List.mem_cons_of_mem _ h)
      · rcases List.mem_cons.1 h with h | h
        · exact .inr (by simp [h])
        · rcases ih h with h | h
          · exact .inl h
          · exact .inr (List.mem_cons_of_mem _ h)

/-- A write keeps the canonical form. -/
theorem assocSet_wf {m : List (Nat × α)} (hm : assocWf m) (k : Nat) (v : α) : assocWf (assocSet m k v) := by
  induction m with
  | nil => simp [assocSet]
  | cons d m ih =>
    obtain ⟨k', v'⟩ := d
    have hm' := List.pairwise_cons.1 hm
    unfold assocSet
    split
    · rename_i hlt
      refine List.pairwise_cons.2 ⟨fun c hc => ?_, hm⟩
      rcases List.mem_cons.1 hc with rfl | hc
      · exact hlt
      · exact lt_trans hlt (hm'.1 c hc)
    · split
      · rename_i heq
        subst heq
        exact List.pairwise_cons.2 ⟨hm'.1, hm'.2⟩
      · refine List.pairwise_cons.2 ⟨fun c hc => ?_, ih hm'.2⟩
        rcases mem_assocSet hc with rfl | hc
        · show k' < k
          omega
        · exact hm'.1 c hc

/-- A store keeps the canonical form of a buffer memory. -/
theorem writeBytes_wf {m : Memory} (hm : Memory.wf m) (a : Nat) (v : List Byte) : Memory.wf (writeBytes m a v) := by
  induction v generalizing m a with
  | nil => exact hm
  | cons b bs ih => exact ih (assocSet_wf hm a b) (a + 1)

/-- The cells after a store: the old ones, and ones inside the stored range. -/
theorem mem_writeBytes {m : Memory} {a : Nat} {v : List Byte} {c : Host.Cell} (h : c ∈ writeBytes m a v) :
    c ∈ m ∨ (a ≤ c.1 ∧ c.1 < a + v.length) := by
  induction v generalizing m a with
  | nil => exact .inl h
  | cons b bs ih =>
    rcases ih h with h | ⟨h1, h2⟩
    · rcases mem_assocSet h with rfl | h
      · exact .inr ⟨le_refl _, by simp⟩
      · exact .inl h
    · exact .inr ⟨by omega, by simp; omega⟩

/-- One byte after a store: the stored byte inside the range, the old one outside. -/
theorem readByte_writeBytes (m : Memory) (a : Nat) (v : List Byte) (x : Nat) :
    readByte (writeBytes m a v) x = if a ≤ x ∧ x < a + v.length then v[x - a]? else readByte m x := by
  induction v generalizing m a with
  | nil =>
    simp [writeBytes]
  | cons b bs ih =>
    have hb : readByte (assocSet m a b) x = if x = a then some b else readByte m x := assocGet_assocSet m a x b
    rw [writeBytes, ih, hb, List.length_cons]
    rcases Nat.lt_trichotomy x a with h | h | h
    · rw [if_neg (by omega), if_neg (by omega), if_neg (by omega)]
    · subst h
      simp
    · obtain ⟨d, rfl⟩ := Nat.exists_eq_add_of_lt h
      have e : a + d + 1 - a = (a + d + 1 - (a + 1)) + 1 := by omega
      by_cases h2 : a + d + 1 < a + 1 + bs.length
      · rw [if_pos (by omega), if_pos (by omega), e, List.getElem?_cons_succ]
      · rw [if_neg (by omega), if_neg (by omega), if_neg (by omega)]

theorem readByte_writeBytes_outside {m : Memory} {a : Nat} {v : List Byte} {x : Nat}
    (h : x < a ∨ a + v.length ≤ x) : readByte (writeBytes m a v) x = readByte m x := by
  rw [readByte_writeBytes, if_neg (by omega)]

@[simp] theorem readBytes_zero (m : Memory) (a : Nat) : readBytes m a 0 = some [] := rfl

/-- A read is the reads of its bytes. -/
theorem readBytes_eq_some_iff (m : Memory) (a n : Nat) (bs : List Byte) :
    readBytes m a n = some bs ↔ bs.length = n ∧ ∀ k, k < n → readByte m (a + k) = bs[k]? := by
  induction n generalizing a bs with
  | zero =>
    cases bs <;> simp
  | succ n ih =>
    simp only [readBytes]
    constructor
    · intro h
      split at h
      · rename_i b cs hb hcs
        obtain rfl : b :: cs = bs := by simpa using h
        obtain ⟨h1, h2⟩ := (ih _ _).1 hcs
        refine ⟨by simp [h1], fun k hk => ?_⟩
        cases k with
        | zero => simpa using hb
        | succ k =>
          have := h2 k (by omega)
          rw [List.getElem?_cons_succ, ← this]
          congr 1
          omega
      · simp at h
    · rintro ⟨h1, h2⟩
      cases bs with
      | nil => simp at h1
      | cons b cs =>
        have h0 := h2 0 (by omega)
        have hr : readBytes m (a + 1) n = some cs := by
          refine (ih _ _).2 ⟨by simpa using h1, fun k hk => ?_⟩
          have := h2 (k + 1) (by omega)
          rw [List.getElem?_cons_succ] at this
          rw [← this]
          congr 1
          omega
        have h0' : readByte m a = some b := by simpa using h0
        rw [h0', hr]

/-- A read outside the stored range. -/
theorem readBytes_writeBytes_before {m : Memory} {a b n : Nat} {v : List Byte} (h : a + n ≤ b) {bs : List Byte}
    (hr : readBytes m a n = some bs) : readBytes (writeBytes m b v) a n = some bs := by
  obtain ⟨h1, h2⟩ := (readBytes_eq_some_iff ..).1 hr
  exact (readBytes_eq_some_iff ..).2 ⟨h1, fun k hk => by
    rw [readByte_writeBytes_outside (by omega)]
    exact h2 k hk⟩

/-- What is appended right after the bytes held reads back after them. -/
theorem readBytes_append {m : Memory} {a n : Nat} {bs v : List Byte} (hr : readBytes m a n = some bs) :
    readBytes (writeBytes m (a + n) v) a (n + v.length) = some (bs ++ v) := by
  obtain ⟨h1, h2⟩ := (readBytes_eq_some_iff ..).1 hr
  refine (readBytes_eq_some_iff ..).2 ⟨by simp [h1], fun k hk => ?_⟩
  rw [readByte_writeBytes]
  by_cases hkn : k < n
  · rw [if_neg (by omega), h2 k hkn, List.getElem?_append_left (by omega)]
  · rw [if_pos (by omega), List.getElem?_append_right (by omega)]
    congr 1
    omega

/-- Every memory operation keeps the canonical form: a record's write (R61, R65) keeps it in every instance. -/
theorem State.memWrite_wf {s t : State} {h : Handle} {a : Nat} {v : List Byte} (ht : s.memWrite h a v = .ok t)
    (hs : ∀ i ∈ s.insts, Memory.wf i.buf) : ∀ i ∈ t.insts, Memory.wf i.buf := by
  unfold State.memWrite at ht
  split at ht
  · obtain rfl := Except.ok.inj ht
    intro i hi
    obtain ⟨k, hk, rfl⟩ := List.getElem_of_mem hi
    have hk' : k < s.insts.length := by simpa using hk
    have hw := hs _ (List.getElem_mem hk')
    simp only [State.modInst_insts, List.getElem_modify]
    split
    · exact writeBytes_wf hw _ _
    · exact hw
  · cases ht

/-- The buffer memories of the machine right after reset are in canonical form. -/
theorem State.reset_memory_wf : ∀ i ∈ State.reset.insts, Memory.wf i.buf := by decide

end Sys2Proof.Machine
end

