-- ==== Sys2Proof/Laws/Ops.lean ====
section
/-! SUPPORT. The guards of the meanings once they hold, the frames of the shared operations, and one lemma per shared operation
that says what it does. -/

namespace Sys2Proof.Machine

variable {s t u : State} {h k : Handle}

/-! ### Guards -/

theorem running_of (hs : s.halted = false) (r : Result) : running s r = r := by simp [running, hs]

theorem onInst_of (hr : Ready s h) (r : Result) : onInst s h r = r := by simp [onInst, running, hr.1, hr.2]

theorem admission_of (ha : Admitted s h) {bar : Option Refusal} (hb : bar = none) (run : State → Result) :
    admission s h bar run = run s.takeCommand := by
  simp [admission, onInst_of ha.1, hb, ha.2]

@[simp] theorem within_true (r : Result) : within true r = r := rfl

@[simp] theorem whenEnabled_true (r : Result) : whenEnabled true r = r := rfl

@[simp] theorem ofExcept_ok (s : State) : ofExcept (.ok s) = .next s := rfl

@[simp] theorem ofExcept_error (f : Fault) : ofExcept (.error f) = .fault f := rfl

/-! ### Frames -/

theorem SameOutside.refl (h : Handle) (s : State) : SameOutside h s s :=
  ⟨fun _ _ => rfl, rfl, rfl, rfl, rfl, rfl, rfl, rfl, rfl, rfl⟩

theorem SameOutside.trans (a : SameOutside h s t) (b : SameOutside h t u) : SameOutside h s u :=
  ⟨fun k hk => (b.others k hk).trans (a.others k hk), b.params.trans a.params, b.nInst.trans a.nInst, b.wake.trans a.wake,
    b.task.trans a.task, b.halted.trans a.halted, b.haltCause.trans a.haltCause, b.haltH.trans a.haltH, b.port.trans a.port,
    b.sched.trans a.sched⟩

theorem SameOutside.modInst (a : SameOutside h s t) (f : Inst → Inst) : SameOutside h s (t.modInst h f) :=
  a.trans ⟨fun _ hk => State.modInst_inst_other hk, rfl, State.modInst_nInst .., rfl, rfl, rfl, rfl, rfl, rfl, rfl⟩

theorem SameOutside.log (a : SameOutside h s t) (e : Event) : SameOutside h s (t.log e) :=
  a.trans ⟨fun _ _ => rfl, rfl, rfl, rfl, rfl, rfl, rfl, rfl, rfl, rfl⟩

theorem SameOutside.now (a : SameOutside h s t) : SameOutside h s t.now :=
  a.trans ⟨fun _ _ => rfl, rfl, rfl, rfl, rfl, rfl, rfl, rfl, rfl, rfl⟩

theorem SameOutside.pinRead (a : SameOutside h s t) (p : PinId) : SameOutside h s (t.pinRead p) :=
  a.trans ⟨fun _ _ => rfl, rfl, rfl, rfl, rfl, rfl, rfl, rfl, rfl, rfl⟩

theorem SameOutside.pinWrite (a : SameOutside h s t) (p : PinId) (b : Bool) : SameOutside h s (t.pinWrite p b) :=
  a.trans ⟨fun _ _ => rfl, rfl, rfl, rfl, rfl, rfl, rfl, rfl, rfl, rfl⟩

theorem SameOutside.waitAtLeast (a : SameOutside h s t) (ns : Nat) : SameOutside h s (t.waitAtLeast ns) :=
  a.trans ⟨fun _ _ => rfl, rfl, rfl, rfl, rfl, rfl, rfl, rfl, rfl, rfl⟩

theorem SameOutside.spiXfer3 (a : SameOutside h s t) (b : PinId) : SameOutside h s (t.spiXfer3 b) :=
  a.trans ⟨fun _ _ => rfl, rfl, rfl, rfl, rfl, rfl, rfl, rfl, rfl, rfl⟩

theorem SameOutside.irqMask (a : SameOutside h s t) : SameOutside h s t.irqMask :=
  a.trans ⟨fun _ _ => rfl, rfl, rfl, rfl, rfl, rfl, rfl, rfl, rfl, rfl⟩

theorem SameOutside.irqUnmask (a : SameOutside h s t) : SameOutside h s t.irqUnmask :=
  a.trans ⟨fun _ _ => rfl, rfl, rfl, rfl, rfl, rfl, rfl, rfl, rfl, rfl⟩

theorem SameOutside.setRet (a : SameOutside h s t) (r : Ret) : SameOutside h s (t.setRet r) :=
  a.trans ⟨fun _ _ => rfl, rfl, rfl, rfl, rfl, rfl, rfl, rfl, rfl, rfl⟩

/-- Memory agrees when the buffer of `h` and every other instance do. -/
theorem SameMemory.of_outside (a : SameOutside h s t) (hb : (t.inst h).buf = (s.inst h).buf) : SameMemory s t := by
  intro k x
  by_cases hk : k = h
  · subst hk
    simp [State.byteAt, hb]
  · simp [State.byteAt, a.others k hk]

/-- The levels of the pins after one is driven. -/
theorem State.pinLevel_setPin (s : State) (p q : PinId) (b : Bool) :
    (s.setPin p b).pinLevel q = if q = p then some b else s.pinLevel q := by
  have e : q.toNat = p.toNat ↔ q = p := ⟨BitVec.eq_of_toNat_eq, fun e => e ▸ rfl⟩
  simp [State.pinLevel, assocGet_assocSet, e]

@[simp] theorem State.pinLevel_pinWrite (s : State) (p q : PinId) (b : Bool) :
    (s.pinWrite p b).pinLevel q = if q = p then some b else s.pinLevel q := State.pinLevel_setPin s p q b

/-! ### Timers -/

/-- TIMER_ARM (R230). -/
theorem timerArm_inst (hh : h.toNat < s.nInst) :
    (timerArm s h).inst h = { s.inst h with tmrWake := s.nextTick + (s.inst h).rest, tmrArmed := true } := by
  simp [timerArm, State.modInst_inst_same, hh]

theorem timerArm_outside (s : State) (h : Handle) : SameOutside h s (timerArm s h) :=
  (((SameOutside.refl h s).irqMask.now).modInst _).irqUnmask

@[simp] theorem timerArm_pins (s : State) (h : Handle) : (timerArm s h).pins = s.pins := rfl

@[simp] theorem timerArm_irqMasked (s : State) (h : Handle) : (timerArm s h).irqMasked = false := rfl

theorem timerArm_trace (s : State) (h : Handle) :
    (timerArm s h).trace = s.trace ++ [.irqMask, .now s.nextTick, .irqUnmask] := by
  simp [timerArm]

/-- TIMER_CANCEL (R231). -/
theorem timerCancel_inst (hh : h.toNat < s.nInst) : (timerCancel s h).inst h = { s.inst h with tmrArmed := false } := by
  simp [timerCancel, State.modInst_inst_same, hh]

theorem timerCancel_outside (s : State) (h : Handle) : SameOutside h s (timerCancel s h) :=
  ((SameOutside.refl h s).irqMask.modInst _).irqUnmask

theorem timerCancel_trace (s : State) (h : Handle) : (timerCancel s h).trace = s.trace ++ [.irqMask, .irqUnmask] := by
  simp [timerCancel]

/-- The clearing of PENDING (R240, R272). -/
theorem clearPending_inst (hh : h.toNat < s.nInst) : (clearPending s h).inst h = { s.inst h with pending := false } := by
  simp [clearPending, State.modInst_inst_same, hh]

theorem clearPending_outside (s : State) (h : Handle) : SameOutside h s (clearPending s h) :=
  ((SameOutside.refl h s).irqMask.modInst _).irqUnmask

theorem clearPending_trace (s : State) (h : Handle) : (clearPending s h).trace = s.trace ++ [.irqMask, .irqUnmask] := by
  simp [clearPending]

/-! ### Transfers -/

theorem captureStart_inst (hh : h.toNat < s.nInst) :
    (captureStart s h).inst h = { s.inst h with tstart := s.nextTick } := by
  simp [captureStart, State.modInst_inst_same, hh]

theorem captureStart_outside (s : State) (h : Handle) : SameOutside h s (captureStart s h) :=
  (SameOutside.refl h s).now.modInst _

theorem captureDuration_inst (hh : h.toNat < s.nInst) :
    (captureDuration s h).inst h = { s.inst h with tdur := s.nextTick - (s.inst h).tstart } := by
  simp [captureDuration, State.modInst_inst_same, hh]

theorem captureDuration_outside (s : State) (h : Handle) : SameOutside h s (captureDuration s h) :=
  (SameOutside.refl h s).now.modInst _

/-- XFER_REG (R140) on the instance. -/
theorem xferReg_inst (hh : h.toNat < s.nInst) :
    (xferReg s h).inst h =
      { s.inst h with
        tstart := s.nextTick
        tdur := s.tickAt (s.env.tickPos + 1) - s.nextTick
        acc := rawOfBytes (s.nextSpi (s.inst h).pinB)
        rafter := false } := by
  simp [xferReg, captureStart, captureDuration, State.modInst_inst_same, hh]

theorem xferReg_outside (s : State) (h : Handle) : SameOutside h s (xferReg s h) :=
  ((((((SameOutside.refl h s).irqMask.now).modInst _).irqUnmask.spiXfer3 _).now).modInst _).modInst _

theorem xferReg_pins (s : State) (h : Handle) : (xferReg s h).pins = s.pins := rfl

theorem xferReg_irqMasked (s : State) (h : Handle) : (xferReg s h).irqMasked = false := rfl

theorem xferReg_tickPos (s : State) (h : Handle) : (xferReg s h).env.tickPos = s.env.tickPos + 2 := rfl

theorem xferReg_nextTick (s : State) (h : Handle) : (xferReg s h).nextTick = s.tickAt (s.env.tickPos + 2) := by
  rw [State.nextTick, xferReg_tickPos]
  rfl

theorem xferReg_trace (hh : h.toNat < s.nInst) :
    (xferReg s h).trace = s.trace ++
      [.irqMask, .now s.nextTick, .irqUnmask,
        .spiXfer (s.inst h).pinB s.params.spiMode s.params.spiTx (s.nextSpi (s.inst h).pinB),
        .now (s.tickAt (s.env.tickPos + 1))] := by
  simp [xferReg, captureStart, captureDuration, State.modInst_inst_same, hh]

theorem pulseHigh_inst (hh : h.toNat < s.nInst) (first : Bool) :
    (pulseHigh s h first).inst h = (if first then { s.inst h with tstart := s.nextTick } else s.inst h) := by
  cases first <;> simp [pulseHigh, captureStart, State.modInst_inst_same, hh]

/-- BB_PULSE (R143) on the instance. -/
theorem bbPulse_inst (hh : h.toNat < s.nInst) (sample first : Bool) :
    (bbPulse s h sample first).inst h = (if first then { s.inst h with tstart := s.nextTick } else s.inst h) := by
  rw [← pulseHigh_inst hh]
  cases sample <;> simp [bbPulse, pulseLow]

theorem bbPulse_outside (s : State) (h : Handle) (sample first : Bool) : SameOutside h s (bbPulse s h sample first) := by
  have h1 : SameOutside h s (pulseHigh s h first) := by
    cases first
    · exact ((SameOutside.refl h s).irqMask.pinWrite _ _).waitAtLeast _
    · exact ((((SameOutside.refl h s).irqMask.now).modInst _).pinWrite _ _).waitAtLeast _
  unfold bbPulse
  cases sample
  · exact ((h1.pinWrite _ _).waitAtLeast _).irqUnmask
  · exact (((h1.pinRead _).pinWrite _ _).waitAtLeast _).irqUnmask

@[simp] theorem bbPulse_nInst (s : State) (h : Handle) (sample first : Bool) :
    (bbPulse s h sample first).nInst = s.nInst := (bbPulse_outside s h sample first).nInst

theorem bbPulse_irqMasked (s : State) (h : Handle) (sample first : Bool) : (bbPulse s h sample first).irqMasked = false := by
  simp [bbPulse, pulseLow]

theorem bbPulse_bit (s : State) (h : Handle) (sample first : Bool) :
    pulseBit s h sample first = if sample then s.nextLevel (s.inst h).pinA else false := by
  cases sample <;> cases first <;> simp [pulseBit, pulseHigh, captureStart]

theorem bbPulse_tickPos (s : State) (h : Handle) (sample first : Bool) :
    (bbPulse s h sample first).env.tickPos = s.env.tickPos + (if first then 1 else 0) := by
  cases sample <;> cases first <;> simp [bbPulse, pulseHigh, pulseLow, captureStart]

theorem bbPulse_levelPos (s : State) (h : Handle) (sample first : Bool) :
    (bbPulse s h sample first).env.levelPos = s.env.levelPos + (if sample then 1 else 0) := by
  cases sample <;> cases first <;> simp [bbPulse, pulseHigh, pulseLow, captureStart]

theorem bbPulse_tickAt (s : State) (h : Handle) (sample first : Bool) (n : Nat) :
    (bbPulse s h sample first).tickAt n = s.tickAt n := by
  cases sample <;> cases first <;> simp [bbPulse, pulseHigh, pulseLow, captureStart]

theorem bbPulse_levelAt (s : State) (h : Handle) (sample first : Bool) (p : PinId) (n : Nat) :
    (bbPulse s h sample first).levelAt p n = s.levelAt p n := by
  cases sample <;> cases first <;> simp [bbPulse, pulseHigh, pulseLow, captureStart]

/-- The clock line is left low, every other pin as it was. -/
theorem bbPulse_pinLevel (hh : h.toNat < s.nInst) (sample first : Bool) (q : PinId) :
    (bbPulse s h sample first).pinLevel q = if q = (s.inst h).pinB then some false else s.pinLevel q := by
  have h1 : (pulseHigh s h first).pinLevel q = if q = (s.inst h).pinB then some true else s.pinLevel q := by
    cases first <;> simp [pulseHigh, captureStart]
  have h2 : ((pulseHigh s h first).inst h).pinB = (s.inst h).pinB := by
    rw [pulseHigh_inst hh]
    cases first <;> rfl
  cases sample <;> by_cases hq : q = (s.inst h).pinB <;> simp [bbPulse, pulseLow, h1, h2, hq]

/-- What one pulse does at the boundary. -/
def pulseEvents (s : State) (h : Handle) (sample first : Bool) : List Event :=
  [.irqMask] ++ (if first then [.now s.nextTick] else []) ++
    [.pinWrite (s.inst h).pinB true, .waitAtLeast s.params.tHighMinNs] ++
    (if sample then [.pinRead (s.inst h).pinA (s.nextLevel (s.inst h).pinA)] else []) ++
    [.pinWrite (s.inst h).pinB false, .waitAtLeast s.params.tLowMinNs, .irqUnmask]

theorem bbPulse_trace (hh : h.toNat < s.nInst) (sample first : Bool) :
    (bbPulse s h sample first).trace = s.trace ++ pulseEvents s h sample first := by
  have h2 : ((pulseHigh s h first).inst h).pinB = (s.inst h).pinB := by
    rw [pulseHigh_inst hh]
    cases first <;> rfl
  have h3 : (pulseHigh s h first).nextLevel (s.inst h).pinA = s.nextLevel (s.inst h).pinA := by
    cases first <;> simp [pulseHigh, captureStart]
  have h4 : (pulseHigh s h first).params = s.params := by
    cases first <;> simp [pulseHigh, captureStart]
  have h1 : (pulseHigh s h first).trace = s.trace ++
      ([.irqMask] ++ (if first then [.now s.nextTick] else []) ++
        [.pinWrite (s.inst h).pinB true, .waitAtLeast s.params.tHighMinNs]) := by
    cases first <;> simp [pulseHigh, captureStart]
  cases sample <;> simp [bbPulse, pulseLow, pulseEvents, h1, h2, h3, h4]

end Sys2Proof.Machine
end

