-- ==== Sys2Proof/Laws/Buffer.lean ====
section
/-! SUPPORT. What the buffer operations do (R190 to R192, R214), each said once. -/

namespace Sys2Proof.Machine

variable {s t : State} {h : Handle} {w : Word32} {data : List Byte} {ws : List Word32}

@[simp] theorem encodeRec_length (w : Word32) : (encodeRec w).length = 4 := rfl

theorem encodeRec_getElem (w : Word32) (j : Nat) (hj : j < 4) : (encodeRec w)[j]? = some (w.extractLsb' (8 * j) 8) := by
  interval_cases j <;> rfl

@[simp] theorem recordBytes_nil : recordBytes [] = [] := rfl

theorem recordBytes_append (a b : List Word32) : recordBytes (a ++ b) = recordBytes a ++ recordBytes b := by
  simp [recordBytes]

@[simp] theorem recordBytes_singleton (w : Word32) : recordBytes [w] = encodeRec w := by simp [recordBytes]

@[simp] theorem recordBytes_length (ws : List Word32) : (recordBytes ws).length = 4 * ws.length := by
  induction ws with
  | nil => rfl
  | cons w ws ih =>
    have e : recordBytes (w :: ws) = encodeRec w ++ recordBytes ws := by simp [recordBytes]
    rw [e, List.length_append, ih]
    simp
    omega

/-- The same facts on the buffer as one read, and byte by byte. -/
theorem readBytes_of_bytes (hl : data.length = (s.inst h).used) (hd : ∀ k, k < (s.inst h).used → s.byteAt h k = data[k]?) :
    readBytes (s.inst h).buf 0 (s.inst h).used = some data :=
  (readBytes_eq_some_iff ..).2 ⟨hl, fun k hk => by simpa [State.byteAt] using hd k hk⟩

theorem capBytes_pos (p : Params) : 4 ≤ capBytes p := by
  have : 1 ≤ 2 ^ p.capLog2 := Nat.one_le_two_pow
  simp only [capBytes, recBytes, capSlots]
  omega

/-- The frame of a flush whose bytes are `data`. -/
def flushReport (s : State) (h : Handle) (data : List Byte) : Event := .report (reportFrame s h data)

/-- The emission of a report (R192, R274). -/
theorem emitReport_ok (hu : 4 ≤ (s.inst h).used) (hd : readBytes (s.inst h).buf 0 (s.inst h).used = some data) :
    emitReport s h = .ok (s.log (flushReport s h data)) := by
  have h1 : ¬(s.inst h).used < recBytes := by simp only [recBytes]; omega
  simp [emitReport, h1, State.memRead, hd, Except.map, flushReport]

/-- What a buffer operation leaves: only the buffer fields of `h` differ, and reports may have been emitted. -/
structure BufferStep (h : Handle) (s t : State) (m : Memory) (used : Nat) (err : Byte) (es : List Event) : Prop where
  inst : t.inst h = { s.inst h with buf := m, used := used, err := err }
  outside : SameOutside h s t
  pins : t.pins = s.pins
  irqMasked : t.irqMasked = s.irqMasked
  env : t.env = s.env
  trace : t.trace = s.trace ++ es

theorem BufferStep.ready {m : Memory} {n : Nat} {e : Byte} {es : List Event} (a : BufferStep h s t m n e es)
    (hh : h.toNat < s.nInst) : h.toNat < t.nInst := by rwa [a.outside.nInst]

theorem BufferStep.trans {u : State} {m m' : Memory} {n n' : Nat} {e e' : Byte} {es es' : List Event}
    (a : BufferStep h s t m n e es) (b : BufferStep h t u m' n' e' es') : BufferStep h s u m' n' e' (es ++ es') where
  inst := by rw [b.inst, a.inst]
  outside := a.outside.trans b.outside
  pins := b.pins.trans a.pins
  irqMasked := b.irqMasked.trans a.irqMasked
  env := b.env.trans a.env
  trace := by rw [b.trace, a.trace, List.append_assoc]

/-- A write of the buffer fields of an instance. -/
theorem BufferStep.modInst (hh : h.toNat < s.nInst) {f : Inst → Inst} {m : Memory} {n : Nat} {e : Byte}
    (hf : f (s.inst h) = { s.inst h with buf := m, used := n, err := e }) :
    BufferStep h s (s.modInst h f) m n e [] where
  inst := by rw [State.modInst_inst_same hh, hf]
  outside := (SameOutside.refl h s).modInst f
  pins := rfl
  irqMasked := rfl
  env := rfl
  trace := by simp

/-- BUF_FLUSH (R192). -/
theorem bufFlush_ok (hh : h.toNat < s.nInst) (hu : 4 ≤ (s.inst h).used)
    (hd : readBytes (s.inst h).buf 0 (s.inst h).used = some data) :
    ∃ t, bufFlush s h = .ok t ∧
      BufferStep h s t (s.inst h).buf 0 (s.inst h).err [flushReport s h data] := by
  refine ⟨(s.log (flushReport s h data)).modInst h fun i => { i with used := 0 }, ?_, ?_⟩
  · simp [bufFlush, emitReport_ok hu hd, Except.map]
  · have a : BufferStep h s (s.log (flushReport s h data)) (s.inst h).buf (s.inst h).used (s.inst h).err
        [flushReport s h data] :=
      ⟨rfl, (SameOutside.refl h s).log _, rfl, rfl, rfl, rfl⟩
    simpa using a.trans (BufferStep.modInst (s := s.log (flushReport s h data)) (m := (s.inst h).buf) (n := 0)
      (e := (s.inst h).err) (by simpa using hh) rfl)

/-- The store of a record (R191, R61). -/
theorem storeRec_ok (hh : h.toNat < s.nInst) (hroom : (s.inst h).used + 4 ≤ capBytes s.params) (w : Word32) :
    ∃ t, storeRec s h w = .ok t ∧
      BufferStep h s t (writeBytes (s.inst h).buf (s.inst h).used (encodeRec w)) ((s.inst h).used + 4) (s.inst h).err
        [] := by
  let s1 := s.modInst h fun i => { i with buf := writeBytes i.buf (s.inst h).used (encodeRec w) }
  have a : BufferStep h s s1 (writeBytes (s.inst h).buf (s.inst h).used (encodeRec w)) (s.inst h).used (s.inst h).err [] :=
    BufferStep.modInst hh rfl
  refine ⟨s1.modInst h fun i => { i with used := i.used + recBytes }, ?_, ?_⟩
  · simp [storeRec, State.memWrite, hroom, Except.map, s1]
  · simpa using a.trans (BufferStep.modInst (s := s1) (m := writeBytes (s.inst h).buf (s.inst h).used (encodeRec w))
      (n := (s.inst h).used + 4) (e := (s.inst h).err) (a.ready hh) (by rw [a.inst]; rfl))

/-- BUF_APPEND where the record fits (R191). -/
theorem bufAppend_room (hh : h.toNat < s.nInst) (hroom : (s.inst h).used + 4 ≤ capBytes s.params) (w : Word32) :
    ∃ t, bufAppend s h w = .ok t ∧
      BufferStep h s t (writeBytes (s.inst h).buf (s.inst h).used (encodeRec w)) ((s.inst h).used + 4) (s.inst h).err
        [] := by
  have h1 : bufferFull s.params (s.inst h) = false := by
    simp only [bufferFull, recBytes]
    simpa using hroom
  simpa [bufAppend, h1] using storeRec_ok hh hroom w

/-- BUF_APPEND where the buffer is full (R191): the flush first. -/
theorem bufAppend_full (hh : h.toNat < s.nInst) (hfull : (s.inst h).used = capBytes s.params)
    (hd : readBytes (s.inst h).buf 0 (s.inst h).used = some data) (w : Word32) :
    ∃ t, bufAppend s h w = .ok t ∧
      BufferStep h s t (writeBytes (s.inst h).buf 0 (encodeRec w)) 4 (s.inst h).err [flushReport s h data] := by
  have hc := capBytes_pos s.params
  have h1 : bufferFull s.params (s.inst h) = true := by
    simp only [bufferFull, recBytes, hfull]
    simp
  obtain ⟨t, ht, a⟩ := bufFlush_ok hh (by omega) hd
  have e : t.inst h = { s.inst h with used := 0 } := a.inst
  obtain ⟨u, hu, b⟩ := storeRec_ok (a.ready hh) (by rw [e, a.outside.params]; simpa using hc) w
  rw [e] at b
  refine ⟨u, ?_, by simpa using a.trans b⟩
  simp [bufAppend, h1, ht, Except.bind, hu]

/-! ### Records -/

/-- Reading an appended record back. -/
theorem holds_append {i j : Inst} (hi : Holds i ws)
    (hb : j.buf = writeBytes i.buf i.used (encodeRec w)) (hu : j.used = i.used + 4) : Holds j (ws ++ [w]) := by
  obtain ⟨h1, h2⟩ := hi
  refine ⟨by rw [hu, h1]; simp [recBytes]; omega, ?_⟩
  rw [hb, hu, recordBytes_append, recordBytes_singleton]
  have := readBytes_append (v := encodeRec w) h2
  simpa using this

/-- A record stored in an emptied buffer. -/
theorem holds_single {i j : Inst} (hb : j.buf = writeBytes i.buf 0 (encodeRec w)) (hu : j.used = 4) : Holds j [w] := by
  refine ⟨by rw [hu]; simp [recBytes], ?_⟩
  rw [hb, hu, recordBytes_singleton]
  have := readBytes_append (m := i.buf) (a := 0) (n := 0) (v := encodeRec w) (bs := []) rfl
  simpa using this

theorem holds_nil {i : Inst} (hu : i.used = 0) : Holds i [] := by
  refine ⟨by simp [hu, recBytes], by simp [hu]⟩

/-- The frame of EMIT_ERROR's report (R214, R100). -/
def errorReport (h : Handle) (c : ErrorCode) (used : Nat) (data : List Byte) : Event :=
  .report { h := h, err := errorByte c, len := BitVec.ofNat 16 used, data := data }

/-- EMIT_ERROR once the sentinel is appended (R214). -/
theorem emitError_of_append (hh : h.toNat < s.nInst) {m : Memory} {n : Nat} {e : Byte} {es : List Event} {t : State}
    (ht : bufAppend s h sentinel = .ok t) (a : BufferStep h s t m n e es) (hn : 4 ≤ n) (hd : readBytes m 0 n = some data)
    (c : ErrorCode) :
    ∃ u, emitError s h c = .ok u ∧ BufferStep h s u m 0 0 (es ++ [errorReport h c n data]) := by
  let t1 := t.modInst h fun i => { i with err := errorByte c }
  have b : BufferStep h t t1 m n (errorByte c) [] := BufferStep.modInst (a.ready hh) (by rw [a.inst])
  have ab := a.trans b
  have e1 : t1.inst h = { s.inst h with buf := m, used := n, err := errorByte c } := ab.inst
  obtain ⟨u, hu, d⟩ := bufFlush_ok (s := t1) (data := data) (ab.ready hh) (by rw [e1]; exact hn) (by rw [e1]; exact hd)
  rw [e1] at d
  have abd := ab.trans d
  let v := u.modInst h fun i => { i with err := 0 }
  have f : BufferStep h u v m 0 0 [] := BufferStep.modInst (abd.ready hh) (by rw [abd.inst])
  refine ⟨v, ?_, ?_⟩
  · have hu' : bufFlush (t.modInst h fun i => { i with err := errorByte c }) h = .ok u := hu
    simp [emitError, ht, Except.bind, hu', Except.map, v]
  · have hr : flushReport t1 h data = errorReport h c n data := by simp [flushReport, reportFrame, errorReport, e1]
    have := abd.trans f
    rw [hr] at this
    simpa using this

/-- EMIT_ERROR on a buffer with room (R214 b). -/
theorem emitError_room (hh : h.toNat < s.nInst) (hroom : (s.inst h).used + 4 ≤ capBytes s.params)
    (hw : Holds (s.inst h) ws) (c : ErrorCode) :
    ∃ t, emitError s h c = .ok t ∧
      BufferStep h s t (writeBytes (s.inst h).buf (s.inst h).used (encodeRec sentinel)) 0 0
        [errorReport h c ((s.inst h).used + 4) (recordBytes (ws ++ [sentinel]))] := by
  obtain ⟨t, ht, a⟩ := bufAppend_room hh hroom sentinel
  have hv : Holds (t.inst h) (ws ++ [sentinel]) := holds_append hw (by rw [a.inst]) (by rw [a.inst])
  have h2 := hv.2
  rw [a.inst] at h2
  simpa using emitError_of_append hh ht a (by omega) h2 c

/-- EMIT_ERROR on a full buffer (R214 a). -/
theorem emitError_full (hh : h.toNat < s.nInst) (hfull : (s.inst h).used = capBytes s.params)
    (hw : Holds (s.inst h) ws) (c : ErrorCode) :
    ∃ t, emitError s h c = .ok t ∧
      BufferStep h s t (writeBytes (s.inst h).buf 0 (encodeRec sentinel)) 0 0
        [flushReport s h (recordBytes ws), errorReport h c 4 (recordBytes [sentinel])] := by
  obtain ⟨t, ht, a⟩ := bufAppend_full hh hfull hw.2 sentinel
  have hv : Holds (t.inst h) [sentinel] := holds_single (i := s.inst h) (by rw [a.inst]) (by rw [a.inst])
  have h2 := hv.2
  rw [a.inst] at h2
  simpa using emitError_of_append hh ht a (by omega) h2 c

/-- The bytes after a record is stored at `a` of the buffer of `h`: its four, and every other byte as before (R62, R191). -/
theorem bytes_of_store {a : Nat} (o : SameOutside h s t) (hb : (t.inst h).buf = writeBytes (s.inst h).buf a (encodeRec w)) :
    (∀ j, j < 4 → t.byteAt h (a + j) = some (w.extractLsb' (8 * j) 8)) ∧
    ∀ k x, ¬(k = h ∧ a ≤ x ∧ x < a + 4) → t.byteAt k x = s.byteAt k x := by
  refine ⟨fun j hj => ?_, fun k x hx => ?_⟩
  · rw [State.byteAt, hb, readByte_writeBytes]
    simpa [hj] using encodeRec_getElem w j hj
  · by_cases hk : k = h
    · subst hk
      rw [State.byteAt, hb, readByte_writeBytes_outside, State.byteAt]
      rw [encodeRec_length]
      by_contra hc
      exact hx ⟨rfl, by omega⟩
    · rw [State.byteAt, State.byteAt, o.others k hk]

end Sys2Proof.Machine
end

