-- ==== Sys2Proof/Laws/Commands.lean ====
section
/-! SUPPORT. What the host commands do once they are admitted (47_host_commands.md), each said once. -/

namespace Sys2Proof.Machine

variable {s t : State} {h : Handle}

theorem Admitted.inRange (a : Admitted s h) : h.toNat < s.takeCommand.nInst := a.1.2

/-- Memory agrees across an accepted command when the buffer of `h` does. -/
theorem SameMemory.of_takeCommand (a : SameOutside h s.takeCommand t) (hb : (t.inst h).buf = (s.inst h).buf) :
    SameMemory s t :=
  SameMemory.of_outside (s := s.takeCommand) a hb

/-! ### START_STOP -/

theorem bufReset_inst (hh : h.toNat < s.nInst) : (bufReset s h).inst h = { s.inst h with used := 0, err := 0 } :=
  State.modInst_inst_same hh

theorem bufReset_outside (s : State) (h : Handle) : SameOutside h s (bufReset s h) := (SameOutside.refl h s).modInst _

/-- The stop that START_STOP begins with, from every state of the instance (R272). -/
theorem stopInst_inst (hh : h.toNat < s.nInst) (n : Tick) :
    (stopInst s h n).inst h =
      { s.inst h with tmrArmed := false, pending := false, used := 0, err := 0, rest := n } := by
  have h1 : h.toNat < (timerCancel s h).nInst := by rwa [(timerCancel_outside s h).nInst]
  have h2 : h.toNat < (clearPending (timerCancel s h) h).nInst := by rwa [(clearPending_outside _ h).nInst]
  have h3 : h.toNat < (bufReset (clearPending (timerCancel s h) h) h).nInst := by rwa [(bufReset_outside _ h).nInst]
  rw [stopInst, State.modInst_inst_same h3, bufReset_inst h2, clearPending_inst h1, timerCancel_inst hh]

theorem stopInst_outside (s : State) (h : Handle) (n : Tick) : SameOutside h s (stopInst s h n) :=
  (((timerCancel_outside s h).trans (clearPending_outside _ h)).trans (bufReset_outside _ h)).modInst _

theorem stopInst_trace (s : State) (h : Handle) (n : Tick) :
    (stopInst s h n).trace = s.trace ++ [.irqMask, .irqUnmask, .irqMask, .irqUnmask] := by
  simp [stopInst, bufReset, clearPending_trace, timerCancel_trace]

@[simp] theorem stopInst_nextTick (s : State) (h : Handle) (n : Tick) : (stopInst s h n).nextTick = s.nextTick := rfl

@[simp] theorem stopInst_pins (s : State) (h : Handle) (n : Tick) : (stopInst s h n).pins = s.pins := rfl

@[simp] theorem stopInst_irqMasked (s : State) (h : Handle) (n : Tick) : (stopInst s h n).irqMasked = false := rfl

theorem startStop_zero (s : State) (h : Handle) : startStop s h 0 = stopInst s h 0 := if_pos rfl

theorem startStop_of_ne {n : Tick} (hn : n ≠ 0) : startStop s h n = timerArm (stopInst s h n) h := if_neg hn

theorem startStop_outside (s : State) (h : Handle) (n : Tick) : SameOutside h s (startStop s h n) := by
  by_cases hn : n = 0
  · subst hn
    rw [startStop_zero]
    exact stopInst_outside s h 0
  · rw [startStop_of_ne hn]
    exact (stopInst_outside s h n).trans (timerArm_outside _ h)

@[simp] theorem startStop_pins (s : State) (h : Handle) (n : Tick) : (startStop s h n).pins = s.pins := by
  unfold startStop
  split <;> rfl

@[simp] theorem startStop_irqMasked (s : State) (h : Handle) (n : Tick) : (startStop s h n).irqMasked = false := by
  unfold startStop
  split <;> rfl

/-- START_STOP with an interval: the timer is armed for that interval (R272). -/
theorem startStop_inst_of_ne (hh : h.toNat < s.nInst) {n : Tick} (hn : n ≠ 0) :
    (startStop s h n).inst h =
      { s.inst h with
        tmrArmed := true, tmrWake := s.nextTick + n, pending := false, used := 0, err := 0, rest := n } := by
  have h1 : h.toNat < (stopInst s h n).nInst := by rwa [(stopInst_outside s h n).nInst]
  rw [startStop_of_ne hn, timerArm_inst h1, stopInst_inst hh, stopInst_nextTick]

/-! ### STATUS_QUERY, CONFIGURE -/

@[simp] theorem statusQuery_inst (s : State) (h k : Handle) : (statusQuery s h).inst k = s.inst k := by
  simp [statusQuery, statusOpen, readyPoll]

@[simp] theorem statusQuery_pins (s : State) (h : Handle) : (statusQuery s h).pins = s.pins := by
  simp [statusQuery, statusOpen, readyPoll]

@[simp] theorem statusQuery_irqMasked (s : State) (h : Handle) : (statusQuery s h).irqMasked = false := by
  simp [statusQuery]

theorem statusQuery_outside (s : State) (h : Handle) : SameOutside h s (statusQuery s h) :=
  (((((SameOutside.refl h s).irqMask.now).pinRead _).now).irqUnmask).log _

/-- What STATUS_QUERY does at the boundary (R273, R102). -/
theorem statusQuery_trace (s : State) (h : Handle) :
    (statusQuery s h).trace = s.trace ++
      [.irqMask, .now s.nextTick, .pinRead (s.inst h).pinA (s.nextLevel (s.inst h).pinA),
        .now (s.tickAt (s.env.tickPos + 1)), .irqUnmask,
        .statusResp
          { h := h
            ts := s.nextTick
            window := s.tickAt (s.env.tickPos + 1) - s.nextTick
            pendingBytes := if s.nextLevel (s.inst h).pinA = false then 4 else 0 }] := by
  simp [statusQuery, statusFrame, statusOpen, readyPoll, readyNow, pendingBytesPerSample]

/-- CONFIGURE with a legal selector (R270). -/
theorem configureWrites_inst (hh : h.toNat < s.nInst) (st : Strategy) (po : Policy) (g : BitVec 3) (a b : PinId) :
    (configureWrites s h st po g a b).inst h = configuredInst st po g a b (s.inst h) := by
  cases st <;> simp [configureWrites, State.modInst_inst_same hh]

theorem configureWrites_outside (s : State) (h : Handle) (st : Strategy) (po : Policy) (g : BitVec 3) (a b : PinId) :
    SameOutside h s (configureWrites s h st po g a b) := by
  cases st
  · exact (SameOutside.refl h s).modInst _
  · exact ((SameOutside.refl h s).modInst _).pinWrite _ _

@[simp] theorem configureWrites_irqMasked (s : State) (h : Handle) (st : Strategy) (po : Policy) (g : BitVec 3)
    (a b : PinId) : (configureWrites s h st po g a b).irqMasked = s.irqMasked := by
  cases st <;> rfl

end Sys2Proof.Machine
end

