-- ==== Sys2Proof/Laws/Trains.lean ====
section
/-! SUPPORT. The pulse trains of XFER_BB (R142, R105), by induction over their pulses, and XFER_BB as a whole. -/

namespace Sys2Proof.Machine

variable {s : State} {h : Handle}

/-! ### Data pulses -/

theorem dataTrain_outside (s : State) (h : Handle) (first : Bool) (n : Nat) : SameOutside h s (dataTrain s h first n) := by
  induction n generalizing s first with
  | zero => exact SameOutside.refl h s
  | succ n ih => exact (bbPulse_outside s h true first).trans (ih _ _)

theorem dataTrain_later_inst (hh : h.toNat < s.nInst) (n : Nat) : (dataTrain s h false n).inst h = s.inst h := by
  induction n generalizing s with
  | zero => rfl
  | succ n ih =>
    rw [dataTrain, ih (by simpa using hh), bbPulse_inst hh]
    rfl

theorem dataTrain_inst (hh : h.toNat < s.nInst) (n : Nat) :
    (dataTrain s h true (n + 1)).inst h = { s.inst h with tstart := s.nextTick } := by
  rw [dataTrain, dataTrain_later_inst (by simpa using hh), bbPulse_inst hh]
  rfl

theorem dataTrain_irqMasked (s : State) (h : Handle) (first : Bool) (n : Nat) (hn : n ≠ 0) :
    (dataTrain s h first n).irqMasked = false := by
  obtain ⟨n, rfl⟩ := Nat.exists_eq_succ_of_ne_zero hn
  clear hn
  induction n generalizing s first with
  | zero => exact bbPulse_irqMasked s h true first
  | succ n ih => exact ih _ _

theorem dataTrain_tickAt (s : State) (h : Handle) (first : Bool) (n k : Nat) :
    (dataTrain s h first n).tickAt k = s.tickAt k := by
  induction n generalizing s first with
  | zero => rfl
  | succ n ih => rw [dataTrain, ih, bbPulse_tickAt]

theorem dataTrain_levelAt (s : State) (h : Handle) (first : Bool) (n : Nat) (p : PinId) (k : Nat) :
    (dataTrain s h first n).levelAt p k = s.levelAt p k := by
  induction n generalizing s first with
  | zero => rfl
  | succ n ih => rw [dataTrain, ih, bbPulse_levelAt]

theorem dataTrain_levelPos (s : State) (h : Handle) (first : Bool) (n : Nat) :
    (dataTrain s h first n).env.levelPos = s.env.levelPos + n := by
  induction n generalizing s first with
  | zero => rfl
  | succ n ih =>
    rw [dataTrain, ih, bbPulse_levelPos]
    simp
    omega

theorem dataTrain_later_tickPos (s : State) (h : Handle) (n : Nat) :
    (dataTrain s h false n).env.tickPos = s.env.tickPos := by
  induction n generalizing s with
  | zero => rfl
  | succ n ih => rw [dataTrain, ih, bbPulse_tickPos]; simp

theorem dataTrain_tickPos (s : State) (h : Handle) (n : Nat) :
    (dataTrain s h true (n + 1)).env.tickPos = s.env.tickPos + 1 := by
  rw [dataTrain, dataTrain_later_tickPos, bbPulse_tickPos]
  simp

theorem bbPulse_pins_form (hp : assocWf s.pins) (sample first : Bool) : assocWf (bbPulse s h sample first).pins := by
  have h1 : assocWf (pulseHigh s h first).pins := by
    cases first <;> exact assocSet_wf hp _ _
  cases sample <;> simpa [bbPulse, pulseLow] using assocSet_wf h1 _ _

theorem dataTrain_pins_form (hp : assocWf s.pins) (first : Bool) (n : Nat) : assocWf (dataTrain s h first n).pins := by
  induction n generalizing s first with
  | zero => exact hp
  | succ n ih => exact ih (bbPulse_pins_form hp _ _) _

theorem dataTrain_pinLevel (hh : h.toNat < s.nInst) (first : Bool) (n : Nat) (q : PinId) :
    (dataTrain s h first n).pinLevel q =
      if q = (s.inst h).pinB ∧ n ≠ 0 then some false else s.pinLevel q := by
  induction n generalizing s first with
  | zero => simp [dataTrain]
  | succ n ih =>
    have hB : ((bbPulse s h true first).inst h).pinB = (s.inst h).pinB := by
      rw [bbPulse_inst hh]
      cases first <;> rfl
    rw [dataTrain, ih (by simpa using hh), bbPulse_pinLevel hh, hB]
    by_cases hq : q = (s.inst h).pinB <;> simp [hq]

/-- Shifting a bit in. -/
theorem shiftIn_getLsbD (acc : Raw24) (b : Bool) (i : Nat) :
    (shiftIn acc b).getLsbD i = if i = 0 then b else (decide (i < 24) && acc.getLsbD (i - 1)) := by
  unfold shiftIn
  rw [BitVec.getLsbD_or, BitVec.getLsbD_shiftLeft, BitVec.getLsbD_setWidth, BitVec.getLsbD_ofBool]
  rcases Nat.eq_zero_or_pos i with rfl | hi
  · simp
  · have h0 : i ≠ 0 := by omega
    have h1 : ¬i < 1 := by omega
    simp [h0, h1]

/-- The accumulator after `n` data pulses: the last bit sampled is bit 0, the older ones stand above it (R105, R142). -/
theorem dataTrainAcc_getLsbD (hh : h.toNat < s.nInst) (first : Bool) (acc : Raw24) (n i : Nat) (hi : i < 24) :
    (dataTrainAcc s h first acc n).getLsbD i =
      if i < n then s.levelAt (s.inst h).pinA (s.env.levelPos + (n - 1 - i)) else acc.getLsbD (i - n) := by
  induction n generalizing s first acc with
  | zero => simp [dataTrainAcc]
  | succ n ih =>
    have hA : ((bbPulse s h true first).inst h).pinA = (s.inst h).pinA := by
      rw [bbPulse_inst hh]
      cases first <;> rfl
    rw [dataTrainAcc, ih (by simpa using hh), hA, bbPulse_levelAt, bbPulse_levelPos, bbPulse_bit]
    by_cases h1 : i < n
    · have e : s.env.levelPos + 1 + (n - 1 - i) = s.env.levelPos + (n + 1 - 1 - i) := by omega
      simp [h1, show i < n + 1 by omega, e]
    · rw [if_neg h1, shiftIn_getLsbD]
      by_cases h2 : i = n
      · subst h2
        simp [State.nextLevel]
      · have h3 : i - n ≠ 0 := by omega
        have h4 : i - n < 24 := by omega
        have h5 : i - n - 1 = i - (n + 1) := by omega
        simp [show ¬i < n + 1 by omega, h3, h4, h5]

/-! ### Selector pulses -/

theorem selectorTrain_outside (s : State) (h : Handle) (n : Nat) : SameOutside h s (selectorTrain s h n) := by
  induction n generalizing s with
  | zero => exact SameOutside.refl h s
  | succ n ih => exact (bbPulse_outside s h false false).trans (ih _)

theorem selectorTrain_inst (hh : h.toNat < s.nInst) (n : Nat) : (selectorTrain s h n).inst h = s.inst h := by
  induction n generalizing s with
  | zero => rfl
  | succ n ih =>
    rw [selectorTrain, ih (by simpa using hh), bbPulse_inst hh]
    rfl

theorem selectorTrain_irqMasked (hs : s.irqMasked = false) (n : Nat) : (selectorTrain s h n).irqMasked = false := by
  induction n generalizing s with
  | zero => exact hs
  | succ n ih => exact ih (bbPulse_irqMasked s h false false)

theorem selectorTrain_tickAt (s : State) (h : Handle) (n k : Nat) : (selectorTrain s h n).tickAt k = s.tickAt k := by
  induction n generalizing s with
  | zero => rfl
  | succ n ih => rw [selectorTrain, ih, bbPulse_tickAt]

theorem selectorTrain_levelAt (s : State) (h : Handle) (n : Nat) (p : PinId) (k : Nat) :
    (selectorTrain s h n).levelAt p k = s.levelAt p k := by
  induction n generalizing s with
  | zero => rfl
  | succ n ih => rw [selectorTrain, ih, bbPulse_levelAt]

theorem selectorTrain_levelPos (s : State) (h : Handle) (n : Nat) :
    (selectorTrain s h n).env.levelPos = s.env.levelPos := by
  induction n generalizing s with
  | zero => rfl
  | succ n ih => rw [selectorTrain, ih, bbPulse_levelPos]; simp

theorem selectorTrain_tickPos (s : State) (h : Handle) (n : Nat) :
    (selectorTrain s h n).env.tickPos = s.env.tickPos := by
  induction n generalizing s with
  | zero => rfl
  | succ n ih => rw [selectorTrain, ih, bbPulse_tickPos]; simp

theorem selectorTrain_pins_form (hp : assocWf s.pins) (n : Nat) : assocWf (selectorTrain s h n).pins := by
  induction n generalizing s with
  | zero => exact hp
  | succ n ih => exact ih (bbPulse_pins_form hp _ _)

theorem selectorTrain_pinLevel (hh : h.toNat < s.nInst) (n : Nat) (q : PinId) :
    (selectorTrain s h n).pinLevel q = if q = (s.inst h).pinB ∧ n ≠ 0 then some false else s.pinLevel q := by
  induction n generalizing s with
  | zero => simp [selectorTrain]
  | succ n ih =>
    have hB : ((bbPulse s h false false).inst h).pinB = (s.inst h).pinB := by
      rw [bbPulse_inst hh]
      rfl
    rw [selectorTrain, ih (by simpa using hh), bbPulse_pinLevel hh, hB]
    by_cases hq : q = (s.inst h).pinB <;> simp [hq]

/-! ### XFER_BB -/

/-- The state of XFER_BB after its last pulse. -/
def afterPulses (s : State) (h : Handle) : State :=
  selectorTrain (dataTrain s h true dataPulses) h (s.inst h).gainsel.toNat

theorem afterPulses_outside (s : State) (h : Handle) : SameOutside h s (afterPulses s h) :=
  (dataTrain_outside s h true _).trans (selectorTrain_outside _ h _)

theorem afterPulses_inst (hh : h.toNat < s.nInst) :
    (afterPulses s h).inst h = { s.inst h with tstart := s.nextTick } := by
  have h1 : h.toNat < (dataTrain s h true dataPulses).nInst := by
    rwa [(dataTrain_outside s h true _).nInst]
  rw [afterPulses, selectorTrain_inst h1, dataPulses, dataTrain_inst hh]

theorem afterPulses_nextTick (s : State) (h : Handle) :
    (afterPulses s h).nextTick = s.tickAt (s.env.tickPos + 1) := by
  rw [State.nextTick, afterPulses, selectorTrain_tickAt, dataTrain_tickAt, selectorTrain_tickPos, dataPulses,
    dataTrain_tickPos]

theorem afterPulses_nextLevel (s : State) (h : Handle) (p : PinId) :
    (afterPulses s h).nextLevel p = s.levelAt p (s.env.levelPos + 24) := by
  rw [State.nextLevel, afterPulses, selectorTrain_levelAt, dataTrain_levelAt, selectorTrain_levelPos,
    dataTrain_levelPos, dataPulses]

theorem afterPulses_pinLevel (hh : h.toNat < s.nInst) (q : PinId) :
    (afterPulses s h).pinLevel q = if q = (s.inst h).pinB then some false else s.pinLevel q := by
  have h1 : h.toNat < (dataTrain s h true dataPulses).nInst := by
    rwa [(dataTrain_outside s h true _).nInst]
  have hB : ((dataTrain s h true dataPulses).inst h).pinB = (s.inst h).pinB := by
    rw [dataPulses, dataTrain_inst hh]
  rw [afterPulses, selectorTrain_pinLevel h1, dataTrain_pinLevel hh, hB]
  by_cases hq : q = (s.inst h).pinB <;> simp [hq, dataPulses]

theorem afterPulses_irqMasked (s : State) (h : Handle) : (afterPulses s h).irqMasked = false :=
  selectorTrain_irqMasked (dataTrain_irqMasked s h true _ (by decide)) _

theorem afterPulses_pins_form (hp : assocWf s.pins) : assocWf (afterPulses s h).pins :=
  selectorTrain_pins_form (dataTrain_pins_form hp _ _) _

theorem xferBb_eq (s : State) (h : Handle) :
    xferBb s h = (readyPoll (captureDuration (afterPulses s h) h) h).modInst h fun i =>
      { i with
        rafter := readyNow (captureDuration (afterPulses s h) h) h
        acc := dataTrainAcc s h true 0 dataPulses } := rfl

/-- XFER_BB (R142) on the instance. -/
theorem xferBb_inst (hh : h.toNat < s.nInst) :
    (xferBb s h).inst h =
      { s.inst h with
        tstart := s.nextTick
        tdur := s.tickAt (s.env.tickPos + 1) - s.nextTick
        rafter := !(s.levelAt (s.inst h).pinA (s.env.levelPos + 24))
        acc := dataTrainAcc s h true 0 dataPulses } := by
  have h1 : h.toNat < (afterPulses s h).nInst := by rwa [(afterPulses_outside s h).nInst]
  have h2 : h.toNat < (captureDuration (afterPulses s h) h).nInst := by rwa [(captureDuration_outside _ h).nInst]
  have e := captureDuration_inst h1
  rw [afterPulses_inst hh, afterPulses_nextTick] at e
  rw [xferBb_eq, State.modInst_inst_same (by simpa [readyPoll] using h2), readyPoll, State.pinRead_inst, e, readyNow, e]
  have e2 : (captureDuration (afterPulses s h) h).nextLevel (s.inst h).pinA =
      s.levelAt (s.inst h).pinA (s.env.levelPos + 24) := by
    rw [← afterPulses_nextLevel s h]
    simp [captureDuration]
  simp [e2]

theorem xferBb_outside (s : State) (h : Handle) : SameOutside h s (xferBb s h) :=
  ((((afterPulses_outside s h).now.modInst _).pinRead _).modInst _)

theorem xferBb_pinLevel (hh : h.toNat < s.nInst) (q : PinId) :
    (xferBb s h).pinLevel q = if q = (s.inst h).pinB then some false else s.pinLevel q := by
  rw [← afterPulses_pinLevel hh]
  simp [xferBb_eq, readyPoll, captureDuration]

theorem xferBb_irqMasked (s : State) (h : Handle) : (xferBb s h).irqMasked = false := by
  rw [← afterPulses_irqMasked s h]
  simp [xferBb_eq, readyPoll, captureDuration]

theorem xferBb_pins_form (hp : assocWf s.pins) : assocWf (xferBb s h).pins := by
  have := afterPulses_pins_form (h := h) hp
  simpa [xferBb_eq, readyPoll, captureDuration] using this

/-! ### What a train does at the boundary -/

theorem dataTrain_trace (hh : h.toNat < s.nInst) (first : Bool) (n : Nat) :
    (dataTrain s h first n).trace = s.trace ++ (List.range n).flatMap fun k =>
      [.irqMask] ++ (if first = true ∧ k = 0 then [.now s.nextTick] else []) ++
        [.pinWrite (s.inst h).pinB true, .waitAtLeast s.params.tHighMinNs,
          .pinRead (s.inst h).pinA (s.levelAt (s.inst h).pinA (s.env.levelPos + k)),
          .pinWrite (s.inst h).pinB false, .waitAtLeast s.params.tLowMinNs, .irqUnmask] := by
  induction n generalizing s first with
  | zero => simp [dataTrain]
  | succ n ih =>
    have i := bbPulse_inst hh true first
    have iA : ((bbPulse s h true first).inst h).pinA = (s.inst h).pinA := by rw [i]; split <;> rfl
    have iB : ((bbPulse s h true first).inst h).pinB = (s.inst h).pinB := by rw [i]; split <;> rfl
    rw [dataTrain, ih (by simpa using hh), bbPulse_trace hh, iA, iB, (bbPulse_outside s h true first).params,
      bbPulse_levelPos, List.range_succ_eq_map, List.flatMap_cons, List.flatMap_map]
    simp only [bbPulse_levelAt, pulseEvents, State.nextLevel, if_true, Nat.add_zero, and_true, List.append_assoc,
      Bool.false_eq_true, false_and, if_false, Nat.succ_ne_zero, and_false, List.nil_append, List.cons_append,
      Nat.succ_eq_add_one, Nat.add_assoc, Nat.add_comm 1]

theorem selectorTrain_trace (hh : h.toNat < s.nInst) (n : Nat) :
    (selectorTrain s h n).trace = s.trace ++ (List.range n).flatMap fun _ =>
      [.irqMask, .pinWrite (s.inst h).pinB true, .waitAtLeast s.params.tHighMinNs, .pinWrite (s.inst h).pinB false,
        .waitAtLeast s.params.tLowMinNs, .irqUnmask] := by
  induction n generalizing s with
  | zero => simp [selectorTrain]
  | succ n ih =>
    have i : (bbPulse s h false false).inst h = s.inst h := bbPulse_inst hh false false
    rw [selectorTrain, ih (by simpa using hh), bbPulse_trace hh, i, (bbPulse_outside s h false false).params,
      List.range_succ_eq_map, List.flatMap_cons, List.flatMap_map]
    simp [pulseEvents]

/-- The whole train (R105, R142). -/
theorem afterPulses_trace (hh : h.toNat < s.nInst) :
    (afterPulses s h).trace = s.trace ++ bitBangTrain s h s.env.levelPos := by
  have o := dataTrain_outside s h true dataPulses
  have i : (dataTrain s h true dataPulses).inst h = { s.inst h with tstart := s.nextTick } := dataTrain_inst hh 23
  rw [afterPulses, selectorTrain_trace (by rwa [o.nInst]), dataTrain_trace hh, i, o.params, List.append_assoc,
    bitBangTrain, List.range_add, List.flatMap_append, List.flatMap_map]
  refine congrArg (s.trace ++ ·) (congrArg₂ (· ++ ·) (List.flatMap_congr fun k hk => ?_) (List.flatMap_congr fun k _ => ?_))
  · have h24 : k < 24 := List.mem_range.1 hk
    simp [h24]
  · simp

/-- XFER_BB at the boundary (R142). -/
theorem xferBb_trace (hh : h.toNat < s.nInst) :
    (xferBb s h).trace = s.trace ++ bitBangTrain s h s.env.levelPos ++
      [.now (s.tickAt (s.env.tickPos + 1)),
        .pinRead (s.inst h).pinA (s.levelAt (s.inst h).pinA (s.env.levelPos + 24))] := by
  have hA : ((captureDuration (afterPulses s h) h).inst h).pinA = (s.inst h).pinA := by
    rw [captureDuration_inst (by rwa [(afterPulses_outside s h).nInst]), afterPulses_inst hh]
  rw [xferBb_eq, State.modInst_trace, readyPoll, hA, ← afterPulses_nextTick s h, ← afterPulses_nextLevel s h,
    ← afterPulses_trace hh]
  simp [captureDuration]

theorem xferBb_nextTick (s : State) (h : Handle) : (xferBb s h).nextTick = s.tickAt (s.env.tickPos + 2) := by
  have e1 : (xferBb s h).env.tickPos = s.env.tickPos + 2 := by
    have : (afterPulses s h).env.tickPos = s.env.tickPos + 1 := by
      rw [afterPulses, selectorTrain_tickPos, dataPulses, dataTrain_tickPos]
    simp [xferBb_eq, readyPoll, captureDuration, this]
  have e2 : ∀ k, (xferBb s h).tickAt k = s.tickAt k := by
    intro k
    have : (afterPulses s h).tickAt k = s.tickAt k := by rw [afterPulses, selectorTrain_tickAt, dataTrain_tickAt]
    simpa [xferBb_eq, readyPoll, captureDuration] using this
  rw [State.nextTick, e1, e2]

end Sys2Proof.Machine
end

