-- ==== Sys2Proof/Laws/Cycle.lean ====
section
/-! SUPPORT. The parts of an acquisition cycle (R240): the decoder's range, the transfer, the classifier, the delivery. -/

namespace Sys2Proof.Machine

variable {s t u : State} {h : Handle}

/-! ### The decoder (R170, R171) -/

/-- DECODE24 as a sign extension but for the one raw value normalised to 0. -/
theorem decodeCount_eq (r : Raw24) : decodeCount r = if r = 0x800000 then 0 else r.signExtend 32 := by
  unfold decodeCount negZero
  by_cases h : r = 0x800000
  · simp [h]
  · simp only [h, if_false]
    have hm : r.msb = r.getLsbD 23 := BitVec.msb_eq_getLsbD_last r
    split
    · rename_i h23
      rw [h23] at hm
      apply BitVec.eq_of_getLsbD_eq
      intro i hi
      rw [BitVec.getLsbD_or, BitVec.getLsbD_setWidth, BitVec.getLsbD_signExtend, hm]
      by_cases h24 : i < 24
      · interval_cases i <;> simp
      · have h0 : r.getLsbD i = false := BitVec.getLsbD_of_ge r i (by omega)
        rw [h0]
        interval_cases i <;> simp_all
    · rename_i h23
      rw [Bool.not_eq_true] at h23
      rw [h23] at hm
      apply BitVec.eq_of_getLsbD_eq
      intro i hi
      rw [BitVec.getLsbD_setWidth, BitVec.getLsbD_signExtend, hm]
      by_cases h24 : i < 24
      · simp [h24, hi]
      · have h0 : r.getLsbD i = false := BitVec.getLsbD_of_ge r i (by omega)
        simp [h0, h24, hi]

/-- Every decoded count is a legal count. -/
theorem decodeCount_isCount (r : Raw24) : IsCount (decodeCount r) := by
  unfold IsCount cntMin cntMax
  rw [decodeCount_eq]
  split
  · decide
  · rename_i h
    rw [BitVec.toInt_signExtend_of_le (by omega)]
    have h1 := BitVec.le_toInt r
    have h2 := BitVec.toInt_lt (x := r)
    have h3 : r.toInt ≠ -8388608 := fun e => h (BitVec.eq_of_toInt_eq (by rw [e]; decide))
    norm_num at h1 h2
    omega

theorem decodeOor_false (r : Raw24) : decodeOor r = false := by
  obtain ⟨h1, h2⟩ := decodeCount_isCount r
  simp [decodeOor, outOfRange, Int.not_lt.2 h1, Int.not_lt.2 h2]

/-! ### The transfer (R140, R142) -/

@[simp] theorem reportsOf_append (a b : List Event) : reportsOf (a ++ b) = reportsOf a ++ reportsOf b := by
  simp [reportsOf]

@[simp] theorem reportsOf_nil : reportsOf [] = [] := rfl

theorem reportsOf_pulse (s : State) (h : Handle) (sample first : Bool) : reportsOf (pulseEvents s h sample first) = [] := by
  cases sample <;> cases first <;> rfl

/-- What a part of a cycle leaves that only measures: the datapath registers of `h` may differ, no report is emitted, interrupts
are open, and no pin differs but a bit-bang clock line left low. -/
structure Measure (h : Handle) (s t : State) : Prop where
  inst : ∃ ts td ac ra, t.inst h = { s.inst h with tstart := ts, tdur := td, acc := ac, rafter := ra }
  outside : SameOutside h s t
  reports : reportsOf t.trace = reportsOf s.trace
  irqMasked : t.irqMasked = false
  pinsForm : assocWf s.pins → assocWf t.pins
  pins : ∀ q, t.pinLevel q = s.pinLevel q ∨
    ((s.inst h).strat = .bitbang ∧ q = (s.inst h).pinB ∧ t.pinLevel q = some false)

theorem dataTrain_reports (hh : h.toNat < s.nInst) (first : Bool) (n : Nat) :
    reportsOf (dataTrain s h first n).trace = reportsOf s.trace := by
  induction n generalizing s first with
  | zero => rfl
  | succ n ih => rw [dataTrain, ih (by simpa using hh), bbPulse_trace hh, reportsOf_append, reportsOf_pulse, List.append_nil]

theorem selectorTrain_reports (hh : h.toNat < s.nInst) (n : Nat) :
    reportsOf (selectorTrain s h n).trace = reportsOf s.trace := by
  induction n generalizing s with
  | zero => rfl
  | succ n ih =>
    rw [selectorTrain, ih (by simpa using hh), bbPulse_trace hh, reportsOf_append, reportsOf_pulse, List.append_nil]

theorem xferBb_reports (hh : h.toNat < s.nInst) : reportsOf (xferBb s h).trace = reportsOf s.trace := by
  have h1 : h.toNat < (dataTrain s h true dataPulses).nInst := by
    rwa [(dataTrain_outside s h true _).nInst]
  have e : reportsOf (afterPulses s h).trace = reportsOf s.trace := by
    rw [afterPulses, selectorTrain_reports h1, dataTrain_reports hh]
  have e2 : ∀ x p b, reportsOf [Event.now x, Event.pinRead p b] = [] := fun _ _ _ => rfl
  simp [xferBb_eq, readyPoll, captureDuration, e, e2]

/-- The transfer of a cycle, by either strategy. -/
theorem transfer_measure (hh : h.toNat < s.nInst) : Measure h s (transfer s h) := by
  unfold transfer
  cases e : (s.inst h).strat with
  | register =>
    refine ⟨⟨_, _, _, _, xferReg_inst hh⟩, xferReg_outside s h, ?_, xferReg_irqMasked s h, fun hp => ?_, fun q => .inl ?_⟩
    · rw [xferReg_trace hh, reportsOf_append]
      exact List.append_nil _
    · rw [xferReg_pins]
      exact hp
    · rw [State.pinLevel, xferReg_pins, State.pinLevel]
  | bitbang =>
    refine ⟨⟨_, _, _, _, xferBb_inst hh⟩, xferBb_outside s h, xferBb_reports hh, xferBb_irqMasked s h,
      fun hp => xferBb_pins_form hp, fun q => ?_⟩
    have hq := xferBb_pinLevel (s := s) hh q
    by_cases hb : q = (s.inst h).pinB
    · rw [if_pos hb] at hq
      exact .inr ⟨e, hb, hq⟩
    · rw [if_neg hb] at hq
      exact .inl hq

/-! ### The classifier and the delivery (R210, R260) -/

/-- CLASSIFY on the instance: COUNT and OOR are written exactly when the decode is reached. -/
theorem classify_inst (hh : h.toNat < s.nInst) :
    (classify s h).inst h =
      if decodesNow s.params (s.inst h) then
        { s.inst h with count := decodeCount (s.inst h).acc, oor := false }
      else s.inst h := by
  unfold classify
  split
  · rw [State.modInst_inst_same hh, decodeOor_false]
  · rfl

theorem classify_outside (s : State) (h : Handle) : SameOutside h s (classify s h) := by
  unfold classify
  split
  · exact (SameOutside.refl h s).modInst _
  · exact SameOutside.refl h s

@[simp] theorem classify_pins (s : State) (h : Handle) : (classify s h).pins = s.pins := by
  unfold classify
  split <;> rfl

@[simp] theorem classify_trace (s : State) (h : Handle) : (classify s h).trace = s.trace := by
  unfold classify
  split <;> rfl

@[simp] theorem classify_irqMasked (s : State) (h : Handle) : (classify s h).irqMasked = s.irqMasked := by
  unfold classify
  split <;> rfl

@[simp] theorem classify_env (s : State) (h : Handle) : (classify s h).env = s.env := by
  unfold classify
  split <;> rfl

/-- A sample is a decoded one: every other verdict leaves COUNT and OOR alone (R211). -/
theorem decodesNow_iff_sample (p : Params) (i : Inst) : decodesNow p i = true ↔ classifyVerdict p i = .sample := by
  unfold decodesNow classifyVerdict escalate
  rw [decodeOor_false]
  cases decide (i.strat = .bitbang) && i.rafter <;> cases durationTooLong p i <;>
    cases i.strict && decide (i.acc = allOnes) <;> cases i.strict <;> simp

@[simp] theorem fanoutDeliver_inst (s : State) (h k : Handle) : (fanoutDeliver s h).inst k = s.inst k := by
  unfold fanoutDeliver
  split <;> rfl

@[simp] theorem fanoutDeliver_pins (s : State) (h : Handle) : (fanoutDeliver s h).pins = s.pins := by
  unfold fanoutDeliver
  split <;> rfl

@[simp] theorem fanoutDeliver_irqMasked (s : State) (h : Handle) : (fanoutDeliver s h).irqMasked = s.irqMasked := by
  unfold fanoutDeliver
  split <;> rfl

@[simp] theorem fanoutDeliver_env (s : State) (h : Handle) : (fanoutDeliver s h).env = s.env := by
  unfold fanoutDeliver
  split <;> rfl

theorem fanoutDeliver_outside (s : State) (h : Handle) : SameOutside h s (fanoutDeliver s h) := by
  unfold fanoutDeliver
  split
  · exact (SameOutside.refl h s).log _
  · exact SameOutside.refl h s

/-- FANOUT_DELIVER at the boundary (R260). -/
theorem fanoutDeliver_trace (s : State) (h : Handle) :
    (fanoutDeliver s h).trace = s.trace ++ (if (s.inst h).endstopValid then [.deliver (deliverFrame (s.inst h))] else []) := by
  unfold fanoutDeliver
  split <;> simp

/-! ### The cycle (R240) -/

/-- The state of a cycle after its readiness poll. -/
def polled (s : State) (h : Handle) : State := readyPoll (clearPending s h) h

theorem polled_inst (hh : h.toNat < s.nInst) : (polled s h).inst h = { s.inst h with pending := false } := by
  simp [polled, readyPoll, clearPending_inst hh]

theorem polled_outside (s : State) (h : Handle) : SameOutside h s (polled s h) := (clearPending_outside s h).pinRead _

theorem polled_trace (hh : h.toNat < s.nInst) :
    (polled s h).trace = s.trace ++
      [.irqMask, .irqUnmask, .pinRead (s.inst h).pinA (s.nextLevel (s.inst h).pinA)] := by
  have e : ((clearPending s h).inst h).pinA = (s.inst h).pinA := by rw [clearPending_inst hh]
  have e2 : (clearPending s h).nextLevel (s.inst h).pinA = s.nextLevel (s.inst h).pinA := by simp [clearPending]
  simp [polled, readyPoll, clearPending_trace, e, e2]

theorem polled_pins (s : State) (h : Handle) : (polled s h).pins = s.pins := rfl

/-- A cycle after its poll: a transfer, classified and acted on, or the re-arming alone. -/
theorem service_eq (hh : h.toNat < s.nInst) :
    service s h =
      if s.nextLevel (s.inst h).pinA = false then
        actOn (classify (transfer (polled s h) h) h) h
          (classifyVerdict (transfer (polled s h) h).params ((transfer (polled s h) h).inst h))
      else .ok (timerArm (polled s h) h) := by
  have e : ((clearPending s h).inst h).pinA = (s.inst h).pinA := by rw [clearPending_inst hh]
  have e2 : (clearPending s h).nextLevel (s.inst h).pinA = s.nextLevel (s.inst h).pinA := by simp [clearPending]
  unfold service
  simp only [readyNow, e, e2]
  cases s.nextLevel (s.inst h).pinA <;> simp [polled]

/-- What the end of a completed cycle leaves: the buffer fields of `h`, what `es` did at the boundary, and the timer re-armed. -/
structure CycleEnd (h : Handle) (s t : State) (m : Memory) (used : Nat) (err : Byte) (es : List Event) : Prop where
  inst : t.inst h =
    { s.inst h with
      buf := m, used := used, err := err, tmrWake := s.nextTick + (s.inst h).rest, tmrArmed := true }
  outside : SameOutside h s t
  pins : t.pins = s.pins
  irqMasked : t.irqMasked = false
  trace : t.trace = s.trace ++ es ++ [.irqMask, .now s.nextTick, .irqUnmask]

theorem BufferStep.rearm {m : Memory} {n : Nat} {e : Byte} {es : List Event} (hh : h.toNat < s.nInst)
    (a : BufferStep h s t m n e es) : CycleEnd h s (timerArm t h) m n e es := by
  have en : t.nextTick = s.nextTick := by simp only [State.nextTick, State.tickAt, a.env]
  refine ⟨?_, a.outside.trans (timerArm_outside t h), a.pins, rfl, ?_⟩
  · rw [timerArm_inst (a.ready hh), a.inst, en]
  · rw [timerArm_trace, a.trace, en]

/-- What the delivery of a cycle does at the boundary (R260). -/
def delivery (i : Inst) : List Event := if i.endstopValid then [.deliver (deliverFrame i)] else []

/-- A delivery before a buffer operation (R260 d). -/
theorem BufferStep.after_delivery {m : Memory} {n : Nat} {e : Byte} {es : List Event}
    (a : BufferStep h (fanoutDeliver s h) t m n e es) : BufferStep h s t m n e (delivery (s.inst h) ++ es) where
  inst := by rw [a.inst, fanoutDeliver_inst]
  outside := (fanoutDeliver_outside s h).trans a.outside
  pins := a.pins.trans (fanoutDeliver_pins s h)
  irqMasked := a.irqMasked.trans (fanoutDeliver_irqMasked s h)
  env := a.env.trans (fanoutDeliver_env s h)
  trace := by rw [a.trace, fanoutDeliver_trace, List.append_assoc, delivery]

/-- A sample with room in the buffer. -/
theorem actOn_sample_room (hh : h.toNat < s.nInst) (hroom : (s.inst h).used + 4 ≤ capBytes s.params) :
    ∃ t, actOn s h .sample = .ok t ∧
      CycleEnd h s t (writeBytes (s.inst h).buf (s.inst h).used (encodeRec (s.inst h).count)) ((s.inst h).used + 4)
        (s.inst h).err (delivery (s.inst h)) := by
  have o := fanoutDeliver_outside s h
  obtain ⟨t, ht, a⟩ := bufAppend_room (s := fanoutDeliver s h) (h := h) (by rwa [o.nInst])
    (by rwa [fanoutDeliver_inst, o.params]) (s.inst h).count
  rw [fanoutDeliver_inst] at a
  exact ⟨timerArm t h, by simp [actOn, ht, Except.map], by simpa using a.after_delivery.rearm hh⟩

/-- A sample with the buffer full: the report of it follows the delivery. -/
theorem actOn_sample_full {data : List Byte} (hh : h.toNat < s.nInst) (hfull : (s.inst h).used = capBytes s.params)
    (hd : readBytes (s.inst h).buf 0 (s.inst h).used = some data) :
    ∃ t, actOn s h .sample = .ok t ∧
      CycleEnd h s t (writeBytes (s.inst h).buf 0 (encodeRec (s.inst h).count)) 4 (s.inst h).err
        (delivery (s.inst h) ++ [flushReport s h data]) := by
  have o := fanoutDeliver_outside s h
  obtain ⟨t, ht, a⟩ := bufAppend_full (s := fanoutDeliver s h) (h := h) (by rwa [o.nInst])
    (by rwa [fanoutDeliver_inst, o.params]) (by rwa [fanoutDeliver_inst]) (s.inst h).count
  have e : flushReport (fanoutDeliver s h) h data = flushReport s h data := by simp [flushReport, reportFrame]
  rw [fanoutDeliver_inst, e] at a
  exact ⟨timerArm t h, by simp [actOn, ht, Except.map], a.after_delivery.rearm hh⟩

/-- A recoverable error with room in the buffer. -/
theorem actOn_recoverable_room {ws : List Word32} (hh : h.toNat < s.nInst)
    (hroom : (s.inst h).used + 4 ≤ capBytes s.params) (hw : Holds (s.inst h) ws) (c : ErrorCode) :
    ∃ t, actOn s h (.recoverable c) = .ok t ∧
      CycleEnd h s t (writeBytes (s.inst h).buf (s.inst h).used (encodeRec sentinel)) 0 0
        [errorReport h c ((s.inst h).used + 4) (recordBytes (ws ++ [sentinel]))] := by
  obtain ⟨t, ht, a⟩ := emitError_room hh hroom hw c
  exact ⟨timerArm t h, by simp [actOn, ht, Except.map], a.rearm hh⟩

/-- A recoverable error with the buffer full. -/
theorem actOn_recoverable_full {ws : List Word32} (hh : h.toNat < s.nInst)
    (hfull : (s.inst h).used = capBytes s.params) (hw : Holds (s.inst h) ws) (c : ErrorCode) :
    ∃ t, actOn s h (.recoverable c) = .ok t ∧
      CycleEnd h s t (writeBytes (s.inst h).buf 0 (encodeRec sentinel)) 0 0
        [flushReport s h (recordBytes ws), errorReport h c 4 (recordBytes [sentinel])] := by
  obtain ⟨t, ht, a⟩ := emitError_full hh hfull hw c
  exact ⟨timerArm t h, by simp [actOn, ht, Except.map], a.rearm hh⟩

/-- The verdict reads five fields only. -/
theorem classifyVerdict_congr (p : Params) {i j : Inst} (h1 : j.strat = i.strat) (h2 : j.policy = i.policy)
    (h3 : j.acc = i.acc) (h4 : j.tdur = i.tdur) (h5 : j.rafter = i.rafter) :
    classifyVerdict p j = classifyVerdict p i := by
  unfold classifyVerdict escalate durationTooLong budgetTicks Inst.strict
  rw [h1, h2, h3, h4, h5]

/-- The state of a cycle after its transfer. -/
def measured (s : State) (h : Handle) : State := transfer (polled s h) h

/-- The state of a register cycle after its transfer (R140), the poll before it included. -/
theorem measured_register (hh : h.toNat < s.nInst) (hst : (s.inst h).strat = .register)
    (hl : s.nextLevel (s.inst h).pinA = false) :
    (measured s h).inst h =
        { s.inst h with
          pending := false, tstart := s.nextTick, tdur := s.tickAt (s.env.tickPos + 1) - s.nextTick,
          acc := rawOfBytes (s.nextSpi (s.inst h).pinB), rafter := false } ∧
      SameOutside h s (measured s h) ∧ (measured s h).pins = s.pins ∧ (measured s h).irqMasked = false ∧
      (measured s h).nextTick = s.tickAt (s.env.tickPos + 2) ∧
      (measured s h).trace = s.trace ++
        [.irqMask, .irqUnmask, .pinRead (s.inst h).pinA false, .irqMask, .now s.nextTick, .irqUnmask,
          .spiXfer (s.inst h).pinB s.params.spiMode s.params.spiTx (s.nextSpi (s.inst h).pinB),
          .now (s.tickAt (s.env.tickPos + 1))] := by
  have ai := polled_inst hh
  have ao := polled_outside s h
  have ahh : h.toNat < (polled s h).nInst := by rwa [ao.nInst]
  have e : measured s h = xferReg (polled s h) h := by simp [measured, transfer, ai, hst]
  have e1 : (polled s h).nextTick = s.nextTick := rfl
  have e2 : ∀ k, (polled s h).tickAt k = s.tickAt k := fun _ => rfl
  have e3 : (polled s h).env.tickPos = s.env.tickPos := rfl
  have e4 : ∀ q, (polled s h).nextSpi q = s.nextSpi q := fun _ => rfl
  have bi := xferReg_inst ahh
  have bt := xferReg_trace ahh
  have bn := xferReg_nextTick (polled s h) h
  rw [ai, e1, e2, e3, e4] at bi
  rw [ai, e1, e2, e3, e4, polled_trace hh, hl, ao.params, List.append_assoc] at bt
  rw [e2, e3] at bn
  rw [e]
  exact ⟨bi, ao.trans (xferReg_outside _ h), (xferReg_pins _ h).trans (polled_pins s h), xferReg_irqMasked _ h, bn, bt⟩

/-- The state of a bit-bang cycle after its transfer (R142, R105): the poll before it draws one level, the train the next 24, the poll
after it one more. -/
theorem measured_bitbang {raw : Raw24} (hh : h.toNat < s.nInst) (hst : (s.inst h).strat = .bitbang)
    (hl : s.nextLevel (s.inst h).pinA = false)
    (hraw : ∀ k, 1 ≤ k → k ≤ 24 → raw.getLsbD (24 - k) = s.levelAt (s.inst h).pinA (s.env.levelPos + k)) :
    (measured s h).inst h =
        { s.inst h with
          pending := false, tstart := s.nextTick, tdur := s.tickAt (s.env.tickPos + 1) - s.nextTick, acc := raw,
          rafter := !(s.levelAt (s.inst h).pinA (s.env.levelPos + 25)) } ∧
      SameOutside h s (measured s h) ∧
      (∀ q, (measured s h).pinLevel q = if q = (s.inst h).pinB then some false else s.pinLevel q) ∧
      (measured s h).irqMasked = false ∧ (measured s h).nextTick = s.tickAt (s.env.tickPos + 2) ∧
      (measured s h).trace = s.trace ++ [.irqMask, .irqUnmask, .pinRead (s.inst h).pinA false] ++
        bitBangTrain s h (s.env.levelPos + 1) ++
        [.now (s.tickAt (s.env.tickPos + 1)),
          .pinRead (s.inst h).pinA (s.levelAt (s.inst h).pinA (s.env.levelPos + 25))] := by
  have ai := polled_inst hh
  have ao := polled_outside s h
  have ahh : h.toNat < (polled s h).nInst := by rwa [ao.nInst]
  have e : measured s h = xferBb (polled s h) h := by simp [measured, transfer, ai, hst]
  have e1 : (polled s h).nextTick = s.nextTick := rfl
  have e2 : ∀ k, (polled s h).tickAt k = s.tickAt k := fun _ => rfl
  have e3 : (polled s h).env.tickPos = s.env.tickPos := rfl
  have e4 : ∀ q k, (polled s h).levelAt q k = s.levelAt q k := fun _ _ => rfl
  have e5 : (polled s h).env.levelPos = s.env.levelPos + 1 := rfl
  have acc : dataTrainAcc (polled s h) h true 0 dataPulses = raw := by
    apply BitVec.eq_of_getLsbD_eq
    intro i hi
    have hr := hraw (24 - i) (by omega) (by omega)
    rw [show 24 - (24 - i) = i by omega] at hr
    rw [dataTrainAcc_getLsbD ahh true 0 _ i hi, if_pos (show i < dataPulses from hi), ai, e4, e5, hr]
    congr 1
    simp only [dataPulses]
    omega
  have train : bitBangTrain (polled s h) h = bitBangTrain s h := by
    funext pos
    simp only [bitBangTrain, ai, e1, e4, ao.params]
  have bi := xferBb_inst ahh
  have bt := xferBb_trace ahh
  have bn := xferBb_nextTick (polled s h) h
  have bp := xferBb_pinLevel (h := h) ahh
  rw [ai, e1, e2, e3, e4, acc, e5, Nat.add_assoc] at bi
  rw [ai, e2, e3, e4, polled_trace hh, hl, e5, train] at bt
  rw [e2, e3] at bn
  rw [ai] at bp
  rw [e]
  exact ⟨bi, ao.trans (xferBb_outside _ h), bp, xferBb_irqMasked _ h, bn, bt⟩

@[simp] theorem reportsOf_delivery (i : Inst) : reportsOf (delivery i) = [] := by
  unfold delivery
  split <;> rfl

theorem classify_nextTick (s : State) (h : Handle) : (classify s h).nextTick = s.nextTick := by
  simp only [State.nextTick, State.tickAt, classify_env]

end Sys2Proof.Machine
end

