-- ==== Sys2Proof/Laws/PerInstr.lean ====
section
/-! SUPPORT. Families of statements, one lemma per operation. WordFields: which operations have a CMD64 word, and where that word
holds its operation code and its handle (30_encoding.md rules R90, R91). -/

namespace Sys2Proof.Laws

/-- An operation has a word exactly when it has an operation code; the word holds the code in bits 63:56 and the handle in bits
55:48. -/
def WordFields.Statement (i : Instr) : Prop :=
  (encode i).isSome = i.hasWord ∧
    ∀ w, encode i = some w → i.opcode? = some (bits w 56 8) ∧ i.handle? = some (bits w 48 8)

/-- Concatenation as a sum. -/
theorem append_toNat {m n : Nat} (x : BitVec m) (y : BitVec n) : (x ++ y).toNat = x.toNat * 2 ^ n + y.toNat := by
  rw [BitVec.toNat_append, ← Nat.shiftLeft_add_eq_or_of_lt y.isLt, Nat.shiftLeft_eq]

/-- A field of a word as a quotient and a remainder. -/
theorem bits_toNat (w : Cmd64) (lo n : Nat) : (bits w lo n).toNat = w.toNat / 2 ^ lo % 2 ^ n := by
  simp [bits, BitVec.extractLsb'_toNat, Nat.shiftRight_eq_div_pow]

/-- The family's statement for an operation with a word: a code, a handle and 48 operand bits. -/
theorem WordFields.of_word {i : Instr} {w : Cmd64} {opc : Byte} {h : Handle} {rest : Nat} (he : encode i = some w)
    (ho : i.opcode? = some opc) (hh : i.handle? = some h) (hr : rest < 2 ^ 48)
    (hw : w.toNat = opc.toNat * 2 ^ 56 + h.toNat * 2 ^ 48 + rest) : WordFields.Statement i := by
  refine ⟨by simp [he, Instr.hasWord, ho], fun v hv => ?_⟩
  obtain rfl : v = w := by simpa [he] using hv.symm
  have h1 := opc.isLt
  have h2 := h.isLt
  rw [ho, hh]
  exact ⟨congrArg some (BitVec.eq_of_toNat_eq (by rw [bits_toNat, hw]; omega)),
    congrArg some (BitVec.eq_of_toNat_eq (by rw [bits_toNat, hw]; omega))⟩

/-- The family's statement for an operation without a word. -/
theorem WordFields.of_none {i : Instr} (he : encode i = none) (ho : i.opcode? = none) : WordFields.Statement i :=
  ⟨by simp [he, Instr.hasWord, ho], fun w hw => by simp [he] at hw⟩

theorem WordFields.configure (h : Handle) (strat : Strategy) (policy : Policy) (gainsel : BitVec 3) (pinA pinB : PinId) :
    WordFields.Statement (.configure h strat policy gainsel pinA pinB) := by
  have h1 := strat.toBit.isLt
  have h2 := policy.toBit.isLt
  have h3 := gainsel.isLt
  have h4 := pinA.isLt
  have h5 := pinB.isLt
  refine WordFields.of_word (opc := 0x01#8) (h := h)
    (rest := strat.toBit.toNat * 2 ^ 47 + policy.toBit.toNat * 2 ^ 46 + gainsel.toNat * 2 ^ 43 + pinA.toNat * 2 ^ 32 +
      pinB.toNat * 2 ^ 24) rfl rfl rfl (by omega) ?_
  simp only [append_toNat, BitVec.toNat_ofNat]
  omega

theorem WordFields.attachConsumer (h consumer : Handle) : WordFields.Statement (.attachConsumer h consumer) := by
  have h1 := consumer.isLt
  refine WordFields.of_word (opc := 0x02#8) (h := h) (rest := consumer.toNat * 2 ^ 40) rfl rfl rfl (by omega) ?_
  simp only [append_toNat, BitVec.toNat_ofNat]
  omega

theorem WordFields.startStop (h : Handle) (rest : Tick) : WordFields.Statement (.startStop h rest) := by
  have h1 := rest.isLt
  refine WordFields.of_word (opc := 0x03#8) (h := h) (rest := rest.toNat * 2 ^ 16) rfl rfl rfl (by omega) ?_
  simp only [append_toNat, BitVec.toNat_ofNat]
  omega

theorem WordFields.statusQuery (h : Handle) : WordFields.Statement (.statusQuery h) := by
  refine WordFields.of_word (opc := 0x04#8) (h := h) (rest := 0) rfl rfl rfl (by omega) ?_
  simp only [append_toNat, BitVec.toNat_ofNat]
  omega

theorem WordFields.sampleReport (h : Handle) : WordFields.Statement (.sampleReport h) := WordFields.of_none rfl rfl

theorem WordFields.timerFire (h : Handle) : WordFields.Statement (.timerFire h) := WordFields.of_none rfl rfl

theorem WordFields.taskBegin : WordFields.Statement .taskBegin := WordFields.of_none rfl rfl

theorem WordFields.taskVisit (h : Handle) : WordFields.Statement (.taskVisit h) := WordFields.of_none rfl rfl

theorem WordFields.taskEnd : WordFields.Statement .taskEnd := WordFields.of_none rfl rfl

theorem WordFields.service (h : Handle) : WordFields.Statement (.service h) := WordFields.of_none rfl rfl

theorem WordFields.timerArm (h : Handle) : WordFields.Statement (.timerArm h) := WordFields.of_none rfl rfl

theorem WordFields.timerCancel (h : Handle) : WordFields.Statement (.timerCancel h) := WordFields.of_none rfl rfl

theorem WordFields.readyPoll (h : Handle) : WordFields.Statement (.readyPoll h) := WordFields.of_none rfl rfl

theorem WordFields.xferReg (h : Handle) : WordFields.Statement (.xferReg h) := WordFields.of_none rfl rfl

theorem WordFields.xferBb (h : Handle) : WordFields.Statement (.xferBb h) := WordFields.of_none rfl rfl

theorem WordFields.bbPulse (h : Handle) (sample first : Bool) : WordFields.Statement (.bbPulse h sample first) :=
  WordFields.of_none rfl rfl

theorem WordFields.tooLong (h : Handle) : WordFields.Statement (.tooLong h) := WordFields.of_none rfl rfl

theorem WordFields.decode24 (r : Raw24) : WordFields.Statement (.decode24 r) := WordFields.of_none rfl rfl

theorem WordFields.encodeRec (w : Word32) : WordFields.Statement (.encodeRec w) := WordFields.of_none rfl rfl

theorem WordFields.classify (h : Handle) : WordFields.Statement (.classify h) := WordFields.of_none rfl rfl

theorem WordFields.emitError (h : Handle) (code : ErrorCode) : WordFields.Statement (.emitError h code) :=
  WordFields.of_none rfl rfl

theorem WordFields.bufReset (h : Handle) : WordFields.Statement (.bufReset h) := WordFields.of_none rfl rfl

theorem WordFields.bufAppend (h : Handle) (w : Word32) : WordFields.Statement (.bufAppend h w) :=
  WordFields.of_none rfl rfl

theorem WordFields.bufFlush (h : Handle) : WordFields.Statement (.bufFlush h) := WordFields.of_none rfl rfl

theorem WordFields.fanoutDeliver (h : Handle) : WordFields.Statement (.fanoutDeliver h) := WordFields.of_none rfl rfl

theorem WordFields.fatalHalt (h : Handle) (cause : FatalCause) : WordFields.Statement (.fatalHalt h cause) :=
  WordFields.of_none rfl rfl

end Sys2Proof.Laws
end

