-- ==== Sys2Proof/Laws/Step.lean ====
section
/-! SUPPORT. What one step can do (00_scope.md R13): the turn that is taken, and what its operation needed to give a next state. -/

namespace Sys2Proof.Machine

variable {s t : State} {h : Handle} {r : Result}

/-! ### Taking a turn changes the choice of the next agent only -/

/-- Two states that differ in the schedule, the environment's counters and the presented words at most. -/
structure SameBlock (s t : State) : Prop where
  insts : t.insts = s.insts
  params : t.params = s.params
  wake : t.wake = s.wake
  task : t.task = s.task
  halted : t.halted = s.halted
  haltCause : t.haltCause = s.haltCause
  haltH : t.haltH = s.haltH
  irqMasked : t.irqMasked = s.irqMasked
  pins : t.pins = s.pins
  trace : t.trace = s.trace

theorem SameBlock.refl (s : State) : SameBlock s s := ⟨rfl, rfl, rfl, rfl, rfl, rfl, rfl, rfl, rfl, rfl⟩

theorem SameBlock.inst (a : SameBlock s t) (h : Handle) : t.inst h = s.inst h := by
  unfold State.inst
  rw [a.insts]

theorem SameBlock.nInst (a : SameBlock s t) : t.nInst = s.nInst := congrArg List.length a.insts

theorem SameBlock.trans {u : State} (a : SameBlock s t) (b : SameBlock t u) : SameBlock s u :=
  ⟨b.insts.trans a.insts, b.params.trans a.params, b.wake.trans a.wake, b.task.trans a.task, b.halted.trans a.halted,
    b.haltCause.trans a.haltCause, b.haltH.trans a.haltH, b.irqMasked.trans a.irqMasked, b.pins.trans a.pins,
    b.trace.trans a.trace⟩

theorem useAgent_same (s : State) : SameBlock s s.useAgent := by
  unfold State.useAgent
  split <;> exact ⟨rfl, rfl, rfl, rfl, rfl, rfl, rfl, rfl, rfl, rfl⟩

theorem present_same (s : State) : SameBlock s s.present := by
  unfold State.present
  split <;> exact ⟨rfl, rfl, rfl, rfl, rfl, rfl, rfl, rfl, rfl, rfl⟩

theorem useTick_same (s : State) : SameBlock s s.useTick := ⟨rfl, rfl, rfl, rfl, rfl, rfl, rfl, rfl, rfl, rfl⟩

theorem takeCommand_same (s : State) : SameBlock s s.takeCommand := ⟨rfl, rfl, rfl, rfl, rfl, rfl, rfl, rfl, rfl, rfl⟩

/-! ### Guards, read backward -/

theorem running_next (he : running s r = .next t) : s.halted = false ∧ r = .next t := by
  cases hs : s.halted with
  | false => exact ⟨rfl, by simpa [running, hs] using he⟩
  | true => simp [running, hs] at he

theorem onInst_next (he : onInst s h r = .next t) : Ready s h ∧ r = .next t := by
  obtain ⟨h1, h2⟩ := running_next he
  split at h2
  · exact ⟨⟨h1, ‹_›⟩, h2⟩
  · cases h2

theorem within_next {p : Bool} (he : within p r = .next t) : p = true ∧ r = .next t := by
  unfold within at he
  split at he
  · exact ⟨‹_›, he⟩
  · cases he

theorem whenEnabled_next {p : Bool} (he : whenEnabled p r = .next t) : p = true ∧ r = .next t := by
  unfold whenEnabled at he
  split at he
  · exact ⟨‹_›, he⟩
  · cases he

theorem ofExcept_next {e : Except Fault State} (he : ofExcept e = .next t) : e = .ok t := by
  cases e <;> cases he
  rfl

/-- A command that gives a next state either waits, with the task in a pass, or is accepted (R275). -/
theorem admission_next {bar : Option Refusal} {run : State → Result} (he : admission s h bar run = .next t) :
    Ready s h ∧ bar = none ∧ ((s.task = .idle ∧ run s.takeCommand = .next t) ∨ (s.task ≠ .idle ∧ t = s)) := by
  obtain ⟨h1, h2⟩ := onInst_next he
  cases bar with
  | some r => cases h2
  | none =>
    refine ⟨h1, rfl, ?_⟩
    by_cases ht : s.task = .idle
    · exact .inl ⟨ht, by simpa [ht] using h2⟩
    · refine .inr ⟨ht, ?_⟩
      simp only [ht, if_false] at h2
      cases h2
      rfl

theorem haltedStop_next (he : haltedStop s r = .next t) : s.halted = false ∧ r = .next t := by
  cases hs : s.halted with
  | false => exact ⟨rfl, by simpa [haltedStop, hs] using he⟩
  | true => simp [haltedStop, hs] at he

/-! ### The step -/

/-- Everything a step can do (R13, R311): power-on reset, a command of the host, an event, or nothing but the turn's passing. -/
theorem step_cases (he : step s = .next t) :
    (s.nextAgent = .powerOn ∧ t = s.useAgent.powerOnReset) ∨
    (s.halted = false ∧ s.nextAgent ≠ .powerOn ∧
      ((SameBlock s t ∧ (s.nextAgent = .host → s.useAgent.present.port = [])) ∨
       (s.nextAgent = .host ∧ ∃ w ws i, s.useAgent.present.port = w :: ws ∧ decode w = .ok i ∧
          exec i s.useAgent.present = .next t) ∨
       (∃ h, s.nextAgent = .timer h ∧ exec (.timerFire h) s.useAgent = .next t) ∨
       (s.nextAgent = .taskBegin ∧ exec .taskBegin s.useAgent = .next t) ∨
       (∃ h, s.nextAgent = .taskVisit h ∧ exec (.taskVisit h) s.useAgent = .next t) ∨
       (s.nextAgent = .taskEnd ∧ exec .taskEnd s.useAgent = .next t))) := by
  have hb := useAgent_same s
  unfold step nextTurn at he
  cases e : s.nextAgent with
  | powerOn =>
    rw [e] at he
    cases he
    exact .inl ⟨rfl, rfl⟩
  | host =>
    right
    simp only [e, turnOf, hostTurn] at he
    cases hp : s.useAgent.present.port with
    | nil =>
      simp only [hp] at he
      obtain ⟨h1, h2⟩ := haltedStop_next he
      cases h2
      have hc := hb.trans (present_same _)
      exact ⟨hc.halted.symm.trans h1, by simp, .inl ⟨hc, fun _ => rfl⟩⟩
    | cons w ws =>
      cases hd : decode w with
      | error x =>
        simp only [hp, hd] at he
        cases (haltedStop_next he).2
      | ok i =>
        simp only [hp, hd] at he
        obtain ⟨h1, h2⟩ := haltedStop_next he
        exact ⟨(hb.trans (present_same _)).halted.symm.trans h1, by simp, .inr (.inl ⟨rfl, w, ws, i, rfl, hd, h2⟩)⟩
  | timer h =>
    right
    simp only [e, turnOf] at he
    split at he
    · rename_i hx
      split at hx <;> cases hx
    · rename_i hx
      split at hx <;> cases hx
      obtain ⟨h1, h2⟩ := haltedStop_next he
      exact ⟨hb.halted.symm.trans h1, by simp, .inr (.inr (.inl ⟨h, rfl, h2⟩))⟩
    · rename_i hx
      split at hx <;> cases hx
      obtain ⟨h1, h2⟩ := haltedStop_next he
      cases h2
      exact ⟨hb.halted.symm.trans h1, by simp, .inl ⟨hb.trans (useTick_same _), by simp⟩⟩
    · cases (haltedStop_next he).2
  | taskBegin =>
    right
    simp only [e, turnOf] at he
    split at he
    · rename_i hx
      split at hx <;> cases hx
    · rename_i hx
      split at hx <;> cases hx
      obtain ⟨h1, h2⟩ := haltedStop_next he
      exact ⟨hb.halted.symm.trans h1, by simp, .inr (.inr (.inr (.inl ⟨rfl, h2⟩)))⟩
    · rename_i hx
      split at hx <;> cases hx
      obtain ⟨h1, h2⟩ := haltedStop_next he
      cases h2
      exact ⟨hb.halted.symm.trans h1, by simp, .inl ⟨hb, by simp⟩⟩
    · cases (haltedStop_next he).2
  | taskVisit h =>
    right
    simp only [e, turnOf] at he
    split at he
    · rename_i hx
      split at hx <;> cases hx
    · rename_i hx
      split at hx <;> cases hx
      obtain ⟨h1, h2⟩ := haltedStop_next he
      exact ⟨hb.halted.symm.trans h1, by simp, .inr (.inr (.inr (.inr (.inl ⟨h, rfl, h2⟩))))⟩
    · rename_i hx
      split at hx <;> cases hx
      obtain ⟨h1, h2⟩ := haltedStop_next he
      cases h2
      exact ⟨hb.halted.symm.trans h1, by simp, .inl ⟨hb, by simp⟩⟩
    · cases (haltedStop_next he).2
  | taskEnd =>
    right
    simp only [e, turnOf] at he
    split at he
    · rename_i hx
      split at hx <;> cases hx
    · rename_i hx
      split at hx <;> cases hx
      obtain ⟨h1, h2⟩ := haltedStop_next he
      exact ⟨hb.halted.symm.trans h1, by simp, .inr (.inr (.inr (.inr (.inr ⟨rfl, h2⟩))))⟩
    · rename_i hx
      split at hx <;> cases hx
      obtain ⟨h1, h2⟩ := haltedStop_next he
      cases h2
      exact ⟨hb.halted.symm.trans h1, by simp, .inl ⟨hb, by simp⟩⟩
    · cases (haltedStop_next he).2

/-- A word decodes to a host command only (R90, R91). -/
theorem decode_command {w : Cmd64} {i : Instr} (hd : decode w = .ok i) :
    (∃ h st po g a b, i = .configure h st po g a b) ∨ (∃ h c, i = .attachConsumer h c) ∨ (∃ h n, i = .startStop h n) ∨
      ∃ h, i = .statusQuery h := by
  unfold decode at hd
  split at hd
  · unfold decodeConfigure at hd
    split at hd
    · cases hd
      exact .inl ⟨_, _, _, _, _, _, rfl⟩
    · cases hd
  · split at hd
    · unfold decodeAttach at hd
      split at hd
      · cases hd
        exact .inr (.inl ⟨_, _, rfl⟩)
      · cases hd
    · split at hd
      · unfold decodeStartStop at hd
        split at hd
        · cases hd
          exact .inr (.inr (.inl ⟨_, _, rfl⟩))
        · cases hd
      · split at hd
        · unfold decodeStatus at hd
          split at hd
          · cases hd
            exact .inr (.inr (.inr ⟨_, rfl⟩))
          · cases hd
        · cases hd

end Sys2Proof.Machine
end

