-- ==== Sys2Proof/Tests/Slice0.lean ====
section
/-! SUPPORT. Tests: expected values from spec/95_test_vectors.md (its vector or program named at each test), the well-formedness
smoke tests, and for every statement with hypotheses a witness that meets them. -/

namespace Sys2Proof.Tests

open Sys2Proof.Machine

/-! ### Small states -/

/-- Variant A on ready 0x10, bus 0x02 (V-CMD row 1). -/
def variantA : Inst := { Inst.reset with configured := true, pinA := 0x10, pinB := 0x02 }

/-- Variant B, the same pins, with consumer 7. -/
def variantB : Inst := { variantA with policy := .escalateOnDesync, endstopValid := true, endstopRef := 7 }

/-- Variant C on dout 0x20, sclk 0x21 with a selector (V-CMD rows 5 to 8). -/
def variantC (gain : BitVec 3) : Inst :=
  { Inst.reset with configured := true, strat := .bitbang, gainsel := gain, pinA := 0x20, pinB := 0x21 }

/-- The reset machine with the group of handle 0 given. -/
def world (i : Inst) : State := { State.reset with insts := [i, Inst.reset, Inst.reset, Inst.reset] }

/-- A state with listed answers of the environment. -/
def given (s : State) (ticks : List Tick) (levels : List Bool) (spi : List Bytes3) : State :=
  { s with env := { s.env with ticks := ticks, levels := levels, spi := spi } }

/-- A running instance waiting for its service, with REST = 1000. -/
def servicing (i : Inst) : Inst := { i with rest := 1000, pending := true }

/-- A running instance whose timer is set for tick 6000, with REST = 1000. -/
def armed (i : Inst) : Inst := { i with rest := 1000, tmrArmed := true, tmrWake := 6000 }

/-- An instance whose buffer holds the records `ws`. -/
def holding (i : Inst) (ws : List Word32) : Inst :=
  { i with buf := writeBytes [] 0 (recordBytes ws), used := 4 * ws.length }

/-- The result is a next state with a property. -/
def after (r : Result) (p : State → Bool) : Bool :=
  match r with
  | .next t => p t
  | _ => false

theorem exists_of_after {r : Result} {p : State → Bool} (h : after r p = true) : ∃ t, r = .next t ∧ p t = true := by
  cases r with
  | next t => exact ⟨t, rfl, h⟩
  | fault f => cases h
  | refused f => cases h

/-- A predicate on the group of handle 0 after an operation on the group `i`, with listed answers. -/
def run (i : Inst) (op : Instr) (ticks : List Tick) (levels : List Bool) (spi : List Bytes3) (p : Inst → Bool) : Bool :=
  after (exec op (given (world i) ticks levels spi)) fun t => p (t.inst 0)

/-- A predicate on what an operation on the group `i` did at the boundary. -/
def emits (i : Inst) (op : Instr) (ticks : List Tick) (levels : List Bool) (spi : List Bytes3) (es : List Event) : Bool :=
  after (exec op (given (world i) ticks levels spi)) fun t => t.trace = es

/-! ### Well-formedness refuses each ill-formed term -/

theorem test_wf_accepts : (Instr.startStop 3 0).wellFormed 4 = true := by decide

theorem test_wf_handle_out_of_range : (Instr.startStop 4 0).handleInRange 4 = false := by decide

theorem test_wf_first_pulse_unsampled : (Instr.bbPulse 0 false true).pulseInTrain = false := by decide

theorem test_wf_event_has_no_word : Instr.taskBegin.hasWord = false := by decide

theorem test_wf_refuses_each :
    (Instr.statusQuery 255).wellFormed 4 = false ∧ (Instr.bbPulse 0 false true).wellFormed 4 = false := by decide

/-! ### Decoding: the words of V-CMD -/

/-- V-CMD row 7 bit by bit from R92's pattern: OPC, H, s, p, ggg, 000, a, b, zeros. -/
theorem test_decode_configure_bits :
    decode 0b0000000100000010100110000010000000100001000000000000000000000000 =
      .ok (.configure 2 .bitbang .alwaysRecoverable 3 0x20 0x21) := by decide

/-- V-CMD row 13. -/
theorem test_decode_configure_strict :
    decode 0x0103C82223000000 = .ok (.configure 3 .bitbang .escalateOnDesync 1 0x22 0x23) := by decide

/-- V-CMD row 4: the selector of a REGISTER command is read as it stands (CONFIGURE stores 0). -/
theorem test_decode_configure_register_selector :
    decode 0x0100281002000000 = .ok (.configure 0 .register .alwaysRecoverable 5 0x10 0x02) := by decide

/-- V-CMD row 14. -/
theorem test_decode_attach_bits :
    decode 0b0000001000000001000001110000000000000000000000000000000000000000 = .ok (.attachConsumer 1 7) := by decide

/-- V-CMD row 16: the interval is bits 47:16. -/
theorem test_decode_start_bits :
    decode 0b0000001100000001000000000000000000000001111101000000000000000000 = .ok (.startStop 1 500) := by decide

/-- V-CMD row 19. -/
theorem test_decode_start_longest : decode 0x0300FFFFFFFF0000 = .ok (.startStop 0 0xFFFFFFFF) := by decide

/-- V-CMD row 22. -/
theorem test_decode_status_bits :
    decode 0b0000010000000011000000000000000000000000000000000000000000000000 = .ok (.statusQuery 3) := by decide

/-- V-CMD rows 23 to 28. -/
theorem test_decode_reserved :
    decode 0x0000000000000000 = .error (.reservedOpcode 0) ∧ decode 0x0500000000000000 = .error (.reservedOpcode 5) ∧
    decode 0x0100011002000000 = .error (.reservedBits 1) ∧ decode 0x0100001002000001 = .error (.reservedBits 1) ∧
    decode 0x0300000003E80001 = .error (.reservedBits 3) ∧ decode 0x0400000000010000 = .error (.reservedBits 4) := by
  decide

/-- V-CMD rows 13, 14, 16, 22, encoded. -/
theorem test_encode_words :
    encode (.configure 3 .bitbang .escalateOnDesync 1 0x22 0x23) = some 0x0103C82223000000 ∧
    encode (.attachConsumer 1 7) = some 0x0201070000000000 ∧ encode (.startStop 1 500) = some 0x0301000001F40000 ∧
    encode (.statusQuery 3) = some 0x0403000000000000 ∧ encode .taskEnd = none := by decide

/-- P1 steps 1 and 2 through the host's entry: the word is decoded and runs as the first operation after reset. -/
theorem test_fetch_word :
    decodeTableWord 64 0x0100001002000000 = some (.configure 0 .register .alwaysRecoverable 0 0x10 0x02) ∧
    after (step (State.reset.withFetchWord 64 0x0100001002000000)) (fun t => t.inst 0 = variantA) = true := by
  decide +kernel

/-! ### One step of each operation -/

/-- P4: CONFIGURE of variant C drives the clock line low. -/
theorem test_configure_drives_clock_low :
    after (exec (.configure 2 .bitbang .alwaysRecoverable 3 0x20 0x21) State.reset)
      (fun t => t.inst 2 = variantC 3 && t.pinLevel 0x21 = some false && t.pinLevel 0x20 = none) = true := by
  decide +kernel

/-- P5 step 3: an illegal selector halts with nothing written. -/
theorem test_configure_illegal_selector :
    after (exec (.configure 3 .bitbang .alwaysRecoverable 5 0x22 0x23) (world (armed variantA)))
      (fun t => t.halted && t.haltCause = 1 && t.haltH = 3 && t.inst 3 = Inst.reset && t.pinLevel 0x23 = none) = true := by
  decide +kernel

/-- P3 step 3. -/
theorem test_attach :
    run { variantB with endstopValid := false, endstopRef := 0 } (.attachConsumer 0 7) [] [] [] (fun i => i = variantB) =
      true := by decide +kernel

/-- P1 step 2. -/
theorem test_start :
    run variantA (.startStop 0 1000) [5000] [] [] (fun i => i = armed variantA) = true := by decide +kernel

/-- P2 step 8: the record of cycle 7 is dropped, and nothing is reported. -/
theorem test_stop_drops_records :
    after (exec (.startStop 0 0) (world (holding (armed variantA) [42])))
      (fun t => (t.inst 0).used = 0 && (t.inst 0).rest = 0 && !(t.inst 0).tmrArmed && reportsOf t.trace = []) = true := by
  decide +kernel

/-- P1 step 10. -/
theorem test_status_query :
    after (exec (.statusQuery 0) (given (world (armed variantA)) [10200, 10201] [true] []))
      (fun t => t.trace.getLast? = some (.statusResp { h := 0, ts := 10200, window := 1, pendingBytes := 0 })) = true := by
  decide +kernel

/-- V-BUF step 5: the frame of the flush, as bytes on the wire. -/
theorem test_sample_report :
    after (exec (.sampleReport 0) (world (holding variantA [1, 2, 3, 4])))
      (fun t => (reportsOf t.trace).map reportBytes =
        [[0x00, 0x00, 0x10, 0x00, 1, 0, 0, 0, 2, 0, 0, 0, 3, 0, 0, 0, 4, 0, 0, 0]]) = true := by decide +kernel

/-- P1 step 3. -/
theorem test_timer_fire :
    run (armed variantA) (.timerFire 0) [6000] [] [] (fun i => !i.tmrArmed && i.pending && i.phase = .servicing) = true := by
  decide +kernel

/-- V-TMR: before the wake time the timer does not fire. -/
theorem test_timer_fire_early :
    exec (.timerFire 0) (given (world (armed variantA)) [5999] [] []) = .refused .notEnabled := by rfl

/-- P1 step 4. -/
theorem test_task_begin :
    after (exec .taskBegin { world (servicing variantA) with wake := true }) (fun t => !t.wake && t.task = .pass [0]) =
      true := by decide +kernel

/-- P3 step 8: an instance that is not pending is skipped. -/
theorem test_task_visit_skips :
    after (exec (.taskVisit 0) { world variantA with task := .pass [0, 1] }) (fun t => t.task = .pass [1] && t.trace = []) =
      true := by decide +kernel

/-- P1 step 6. -/
theorem test_task_end :
    after (exec .taskEnd { world variantA with task := .pass [] }) (fun t => t.task = .idle) = true := by decide +kernel

/-- P1 step 9: a good sample. -/
theorem test_service_sample :
    run (servicing variantA) (.service 0) [9040, 9130, 9140] [false] [⟨0x00, 0x01, 0xF4⟩]
      (fun i => readBytes i.buf 0 4 = some [0xF4, 0x01, 0x00, 0x00] && i.used = 4 && i.count = 0x1F4 && i.tdur = 90 &&
        i.tmrWake = 10140 && i.tmrArmed && !i.pending) = true := by decide +kernel

/-- P4 cycle 2: ready after the read of a bit-bang train; the report carries the sample held and the sentinel. -/
theorem test_service_ready_after_read :
    after (exec (.service 0) (given (world (servicing (holding (variantC 3) [0xFF800001]))) [4430, 4730, 4740]
        ([false] ++ [false, false, false, true, false, false, true, false, false, false, true, true, false, true, false, false,
          false, true, false, true, false, true, true, false] ++ [false]) []))
      (fun t => (t.inst 0).acc = 0x123456 && (t.inst 0).used = 0 && (t.inst 0).tmrWake = 5740 &&
        (reportsOf t.trace).map reportBytes = [[0x00, 0x03, 0x08, 0x00, 0x01, 0x00, 0x80, 0xFF, 0x00, 0x00, 0x00, 0x80]]) =
      true := by decide +kernel

/-- V-TMR, TIMER_ARM across the wrap. -/
theorem test_timer_arm :
    run { variantA with rest := 0x200 } (.timerArm 0) [0xFFFFFF00] [] [] (fun i => i.tmrWake = 0x100 && i.tmrArmed) = true := by
  decide +kernel

theorem test_timer_cancel : run (armed variantA) (.timerCancel 0) [] [] [] (fun i => !i.tmrArmed) = true := by decide +kernel

/-- V-RDY: a low pin is ready, a high one is not. -/
theorem test_ready_poll :
    after (exec (.readyPoll 0) (given (world variantA) [] [false] [])) (fun t => t.ret = .bit true) = true ∧
    after (exec (.readyPoll 0) (given (world variantA) [] [true] [])) (fun t => t.ret = .bit false) = true := by
  decide +kernel

/-- V-RAW, V-LONG row 4: the first byte is the most significant, the duration wraps. -/
theorem test_xfer_reg :
    run variantA (.xferReg 0) [0xFFFFFF00, 0x20] [] [⟨0x12, 0x34, 0x56⟩]
      (fun i => i.acc = 0x123456 && i.tdur = 288 && i.tstart = 0xFFFFFF00 && !i.rafter) = true := by decide +kernel

/-- V-RAW, P4 cycle 1: the bit of pulse 1 is the most significant; 27 pulses for GAINSEL = 3. -/
theorem test_xfer_bb :
    after (exec (.xferBb 0) (given (world (variantC 3)) [2110, 2410] ([true] ++ List.replicate 22 false ++ [true, true]) []))
      (fun t => (t.inst 0).acc = 0x800001 && (t.inst 0).tdur = 300 && !(t.inst 0).rafter &&
        (t.trace.filter fun e => e = .pinWrite 0x21 true).length = 27) = true := by decide +kernel

/-- R143: the first pulse of a train. -/
theorem test_bb_pulse :
    emits (variantC 1) (.bbPulse 0 true true) [2110] [true] []
      [.irqMask, .now 2110, .pinWrite 0x21 true, .waitAtLeast 200, .pinRead 0x20 true, .pinWrite 0x21 false,
        .waitAtLeast 200, .irqUnmask] = true := by decide +kernel

/-- V-LONG rows 1 and 2. -/
theorem test_too_long :
    after (exec (.tooLong 0) (world { variantA with tdur := 2399 })) (fun t => t.ret = .bit false) = true ∧
    after (exec (.tooLong 0) (world { variantA with tdur := 2400 })) (fun t => t.ret = .bit true) = true := by
  decide +kernel

/-- V-DEC rows 7 to 9, 11, 14. -/
theorem test_decode24 :
    decodeCount 0x7FFFFF = 0x007FFFFF ∧ decodeCount 0x800000 = 0 ∧ decodeCount 0x800001 = 0xFF800001 ∧
    decodeCount 0xABCDEF = 0xFFABCDEF ∧ decodeCount 0xFFFFFF = 0xFFFFFFFF := by decide

/-- V-DEC, the range comparator by itself. -/
theorem test_range_comparator :
    outOfRange 0x007FFFFF = false ∧ outOfRange 0x00800000 = true ∧ outOfRange 0xFF800001 = false ∧
    outOfRange 0xFF800000 = true ∧ outOfRange 0x80000000 = true ∧ outOfRange 0x7FFFFFFF = true := by decide

/-- V-ENC. -/
theorem test_encode_rec :
    encodeRec 0x123456 = [0x56, 0x34, 0x12, 0x00] ∧ encodeRec sentinel = [0x00, 0x00, 0x00, 0x80] ∧
    assembleRec 0x38 0xFF 0xFF 0xFF = 0xFFFFFF38 := by decide

/-- V-CLS rows 7 and 9: too-long is tested before the all-ones value. -/
theorem test_classify_strict :
    after (exec (.classify 0) (world { variantB with acc := 0xFFFFFF })) (fun t => t.ret = .verdict (.fatal .allOnes)) = true ∧
    after (exec (.classify 0) (world { variantB with acc := 0xFFFFFF, tdur := 2400 }))
      (fun t => t.ret = .verdict (.recoverable .transferTooLong) && (t.inst 0).count = 0) = true := by decide +kernel

/-- V-CLS rows 2 and 12. -/
theorem test_classify_recoverable :
    after (exec (.classify 0) (world { variantA with acc := 0xFFFFFF }))
      (fun t => t.ret = .verdict .sample && (t.inst 0).count = 0xFFFFFFFF) = true ∧
    after (exec (.classify 0) (world { variantC 1 with acc := 0x123456, rafter := true, tdur := 800 }))
      (fun t => t.ret = .verdict (.recoverable .readyAfterRead) && (t.inst 0).count = 0) = true := by decide +kernel

/-- V-ERR row 4: two reports from a full buffer. -/
theorem test_emit_error_full :
    after (exec (.emitError 0 .outOfRange) (world (holding variantA [1, 2, 3, 4])))
      (fun t => (reportsOf t.trace).map (fun r => (r.err, r.len)) = [(0, 16), (2, 4)] && (t.inst 0).used = 0 &&
        (t.inst 0).err = 0) = true := by decide +kernel

/-- V-ERR row 2. -/
theorem test_emit_error_room :
    after (exec (.emitError 0 .transferTooLong) (world (holding variantA [0x2A])))
      (fun t => (reportsOf t.trace).map reportBytes = [[0, 1, 8, 0, 0x2A, 0, 0, 0, 0, 0, 0, 0x80]]) = true := by
  decide +kernel

theorem test_buf_reset : run (holding variantA [5]) (.bufReset 0) [] [] [] (fun i => i.used = 0 && i.err = 0) = true := by
  decide +kernel

/-- V-BUF steps 4 and 5: the fourth append fills the buffer, the fifth finds it full. -/
theorem test_buf_append :
    after (exec (.bufAppend 0 4) (world (holding variantA [1, 2, 3]))) (fun t => (t.inst 0).used = 16 && t.trace = []) = true ∧
    after (exec (.bufAppend 0 5) (world (holding variantA [1, 2, 3, 4])))
      (fun t => (t.inst 0).used = 4 && readBytes (t.inst 0).buf 0 4 = some [5, 0, 0, 0] &&
        (reportsOf t.trace).map (fun r => r.len) = [16]) = true := by decide +kernel

/-- U4: a byte that nothing has written is not read. -/
theorem test_buf_flush_unwritten :
    exec (.bufFlush 0) (world { variantA with used := 4 }) = .fault .unwrittenByte := by rfl

theorem test_buf_flush :
    after (exec (.bufFlush 0) (world (holding variantA [7])))
      (fun t => (t.inst 0).used = 0 && (reportsOf t.trace).map (fun r => r.data) = [[7, 0, 0, 0]]) = true := by decide +kernel

/-- V-FAN row 2. -/
theorem test_fanout :
    emits { variantB with count := 0xFFFFFF38, tstart := 520 } (.fanoutDeliver 0) [] [] []
      [.deliver { consumer := 7, count := 0xFFFFFF38, ts := 520 }] = true ∧
    deliverBits { consumer := 7, count := 0xFFFFFF38, ts := 520 } = 0x07FFFFFF3800000208 := by decide +kernel

/-- P3 step 13, the end state. -/
theorem test_fatal_halt :
    after (exec (.fatalHalt 0 .allOnes) (world variantB)) (fun t => haltOutputs t = (true, 2, 0) && t.inst 0 = variantB) =
      true := by decide +kernel

/-- V-TMR, REACHED. -/
theorem test_reached :
    reached 6000 6000 = true ∧ reached 5999 6000 = false ∧ reached 5 0xFFFFFFF0 = true ∧ reached 0xFFFFFFF0 5 = false ∧
    reached 0 0x80000000 = false ∧ reached 0 0x80000001 = true := by decide

/-! ### Witnesses: for each statement with hypotheses, states and operands that meet all of them together -/

/-- A running state and a handle in range, from the two facts. -/
theorem ready {s : State} {h : Handle} (h1 : s.halted = false) (h2 : h.toNat < s.nInst) : Ready s h := ⟨h1, h2⟩

/-- The same with the task idle. -/
theorem admitted {s : State} {h : Handle} (h1 : Ready s h) (h2 : s.task = .idle) : Admitted s h := ⟨h1, h2⟩

theorem witness_DecodeOfEncode :
    encode (.configure 255 .bitbang .escalateOnDesync 7 255 255) = some 0x01FFF8FFFF000000 ∧
    encode (.attachConsumer 0 255) = some 0x0200FF0000000000 ∧ encode (.startStop 255 1) = some 0x03FF000000010000 ∧
    encode (.statusQuery 0) = some 0x0400000000000000 := by decide

theorem witness_EncodeOfDecode : decode 0x0103C82223000000 = .ok (.configure 3 .bitbang .escalateOnDesync 1 0x22 0x23) := by
  decide

theorem witness_StepRunsPresentedCommand :
    let s : State := { State.reset with sched := [.host], port := [0x0300000003E80000] }
    s.halted = false ∧ s.sched = .host :: [] ∧ s.port = 0x0300000003E80000 :: [] ∧
      decode 0x0300000003E80000 = .ok (.startStop 0 1000) := by decide

/-- A timer that has reached its wake time, and one a tick early. -/
theorem witness_StepRunsEnabledEvent_timer :
    let s := { given (world (armed variantA)) [6000] [] [] with sched := [.timer 0] }
    let e := { given (world (armed variantA)) [5999] [] [] with sched := [.timer 0] }
    (s.halted = false ∧ s.sched = .timer 0 :: [] ∧ s.irqMasked = false ∧ (s.inst 0).configured = true ∧
      (s.inst 0).tmrArmed = true ∧ (s.nextTick - (s.inst 0).tmrWake).toNat < 2 ^ 31) ∧
    e.halted = false ∧ e.sched = .timer 0 :: [] ∧ ¬(e.nextTick - (e.inst 0).tmrWake).toNat < 2 ^ 31 := by decide +kernel

theorem witness_StepRunsEnabledEvent_task :
    let b : State := { State.reset with sched := [.taskBegin], wake := true }
    let v : State := { State.reset with sched := [.taskVisit 0], task := .pass [0] }
    let w : State := { State.reset with sched := [.taskVisit 0], task := .pass [1] }
    let e : State := { State.reset with sched := [.taskEnd], task := .pass [] }
    (b.halted = false ∧ b.sched = .taskBegin :: [] ∧ b.task = .idle ∧ b.wake = true) ∧
    (v.halted = false ∧ v.sched = .taskVisit 0 :: [] ∧ v.task = .pass [0] ∧ (0 : Handle) ∈ [(0 : Handle)]) ∧
    (w.halted = false ∧ w.sched = .taskVisit 0 :: [] ∧ w.task = .pass [1] ∧ (0 : Handle) ∉ [(1 : Handle)]) ∧
    e.halted = false ∧ e.sched = .taskEnd :: [] ∧ e.task = .pass [] := by decide

theorem witness_FetchWordRunsNext :
    State.reset.halted = false ∧ decode (BitVec.ofNat 64 0x0100001002000000) =
      .ok (.configure 0 .register .alwaysRecoverable 0 0x10 0x02) := by decide

theorem witness_ReservedWordRefused :
    let s : State := { State.reset with sched := [.host], port := [0x0500000000000000] }
    let u : State := { State.reset with sched := [.host], port := [0x0300000003E80001] }
    (s.halted = false ∧ s.sched = .host :: [] ∧ s.port = 0x0500000000000000 :: [] ∧
      decode 0x0500000000000000 = .error (.reservedOpcode 5)) ∧
    u.halted = false ∧ u.sched = .host :: [] ∧ u.port = 0x0300000003E80001 :: [] ∧
      decode 0x0300000003E80001 = .error (.reservedBits 3) := by decide

theorem witness_HaltedBlocksEveryOperation : (State.reset.raiseFatal 0 .allOnes).halted = true := by decide

/-- Another agent's turn in the halt, power-on reset in the halt, and power-on reset of a running block with work pending. -/
theorem witness_HaltLeftOnlyByPowerOn :
    let s := { State.reset.raiseFatal 1 .allOnes with sched := [.taskEnd] }
    let u := { State.reset.raiseFatal 1 .allOnes with sched := [.powerOn] }
    let v := { world (servicing variantA) with sched := [.powerOn], task := .pass [0], wake := true }
    (s.halted = true ∧ s.nextAgent ≠ .powerOn) ∧ (u.halted = true ∧ u.nextAgent = .powerOn) ∧
      v.halted = false ∧ v.nextAgent = .powerOn ∧ (v.inst 0).configured = true ∧ (v.inst 0).phase = .servicing := by
  decide

/-- The legal selectors' ends for BITBANG, any selector for REGISTER, and the illegal ones' ends. -/
theorem witness_ConfigureResult :
    Admitted State.reset 3 ∧ (State.reset.inst 3).configured = false ∧
      (∀ g : BitVec 3, g = 1 ∨ g = 4 → Strategy.bitbang = .register ∨ (1 ≤ g.toNat ∧ g.toNat ≤ 4)) ∧
      (Strategy.register = .register ∨ (1 ≤ (7 : BitVec 3).toNat ∧ (7 : BitVec 3).toNat ≤ 4)) ∧
      ∀ g : BitVec 3, g = 0 ∨ g = 5 ∨ g = 7 → g.toNat = 0 ∨ 5 ≤ g.toNat :=
  ⟨admitted (ready rfl (by decide)) rfl, by decide, by decide, by decide, by decide⟩

/-- Variant B, and the two other variants. -/
theorem witness_AttachBindsConsumer :
    Admitted (world variantB) 0 ∧ ((world variantB).inst 0).configured = true ∧
      (((world variantB).inst 0).strat = .register ∧ ((world variantB).inst 0).policy = .escalateOnDesync) ∧
      Admitted (world variantA) 0 ∧ ¬(variantA.strat = .register ∧ variantA.policy = .escalateOnDesync) ∧
      Admitted (world (variantC 1)) 0 ∧
      ¬((variantC 1).strat = .register ∧ (variantC 1).policy = .escalateOnDesync) :=
  ⟨admitted (ready rfl (by decide)) rfl, rfl, ⟨rfl, rfl⟩, admitted (ready rfl (by decide)) rfl, by decide,
    admitted (ready rfl (by decide)) rfl, by decide⟩

/-- A running instance can be stopped, and a stopped one started with the shortest and the longest interval. -/
theorem witness_StartStopResult :
    (Admitted (world (armed variantA)) 0 ∧ ((world (armed variantA)).inst 0).configured = true) ∧
    Admitted (world variantA) 0 ∧ ((world variantA).inst 0).configured = true ∧ (1 : Tick) ≠ 0 ∧ (0xFFFFFFFF : Tick) ≠ 0 :=
  ⟨⟨admitted (ready rfl (by decide)) rfl, rfl⟩, admitted (ready rfl (by decide)) rfl, rfl, by decide, by decide⟩

theorem witness_StatusQueryAnswers :
    Admitted (world (holding variantA [1, 2, 3])) 0 ∧ ((world (holding variantA [1, 2, 3])).inst 0).configured = true :=
  ⟨admitted (ready rfl (by decide)) rfl, rfl⟩

theorem witness_CommandWaitsDuringPass :
    let s := { world variantB with task := .pass [0] }
    (Ready s 1 ∧ s.task = .pass [0] ∧ (s.inst 1).configured = false) ∧
    Ready s 0 ∧ s.task = .pass [0] ∧ (s.inst 0).configured = true ∧ (s.inst 0).strat = .register ∧
      (s.inst 0).policy = .escalateOnDesync :=
  ⟨⟨ready rfl (by decide), rfl, rfl⟩, ready rfl (by decide), rfl, rfl, rfl, rfl⟩

/-- Each clause, the first at the first handle that is out of range. -/
theorem witness_CommandsRefused :
    ((world variantA).halted = false ∧ (world variantA).nInst ≤ (4 : Handle).toNat ∧
      (Instr.statusQuery 4).handle? = some 4 ∧ (Instr.bufFlush 4).handle? = some 4) ∧
    ((0 : Handle).toNat < (world variantA).nInst ∧ ((world variantA).inst 0).configured = true) ∧
    ((3 : Handle).toNat < (world variantA).nInst ∧ ((world variantA).inst 3).configured = false) ∧
    (((world variantA).inst 0).strat = .bitbang ∨ ((world variantA).inst 0).policy = .alwaysRecoverable) ∧
    ((world (variantC 1)).halted = false ∧ (0 : Handle).toNat < (world (variantC 1)).nInst ∧
      ((world (variantC 1)).inst 0).configured = true ∧ ((world (variantC 1)).inst 0).strat = .bitbang) := by decide

theorem witness_StopIsIdempotent :
    (world (holding (armed variantA) [42])).task = .idle ∧
      ∃ t, exec (.startStop 0 0) (world (holding (armed variantA) [42])) = .next t :=
  ⟨rfl, _, rfl⟩

theorem witness_ReadyPollResult : Ready (world variantA) 0 ∧ ((world variantA).inst 0).configured = true :=
  ⟨ready rfl (by decide), rfl⟩

theorem witness_XferRegResult :
    Ready (world variantA) 0 ∧ ((world variantA).inst 0).configured = true ∧ ((world variantA).inst 0).strat = .register :=
  ⟨ready rfl (by decide), rfl, rfl⟩

theorem witness_BbPulseResult : Ready (world (variantC 1)) 0 ∧ ((world (variantC 1)).inst 0).configured = true :=
  ⟨ready rfl (by decide), rfl⟩

/-- The shortest and the longest train. -/
theorem witness_XferBbResult :
    (Ready (world (variantC 1)) 0 ∧ ((world (variantC 1)).inst 0).configured = true ∧
      ((world (variantC 1)).inst 0).strat = .bitbang ∧ 1 ≤ ((world (variantC 1)).inst 0).gainsel.toNat ∧
      ((world (variantC 1)).inst 0).gainsel.toNat ≤ 4) ∧
    Ready (world (variantC 4)) 0 ∧ ((world (variantC 4)).inst 0).configured = true ∧
      ((world (variantC 4)).inst 0).strat = .bitbang ∧ 1 ≤ ((world (variantC 4)).inst 0).gainsel.toNat ∧
      ((world (variantC 4)).inst 0).gainsel.toNat ≤ 4 :=
  ⟨⟨ready rfl (by decide), rfl, rfl, by decide, by decide⟩, ready rfl (by decide), rfl, rfl, by decide, by decide⟩

theorem witness_BitBangTrainShape :
    (∃ t, exec (.xferBb 0) (given (world (variantC 1)) [1, 2] (List.replicate 25 true) []) = .next t) ∧
    ∃ t, exec (.xferBb 0) (given (world (variantC 4)) [1, 2] (List.replicate 25 true) []) = .next t := by
  have h : (after (exec (.xferBb 0) (given (world (variantC 1)) [1, 2] (List.replicate 25 true) [])) fun _ => true) = true ∧
      (after (exec (.xferBb 0) (given (world (variantC 4)) [1, 2] (List.replicate 25 true) [])) fun _ => true) = true := by
    decide +kernel
  obtain ⟨t, ht, -⟩ := exists_of_after h.1
  obtain ⟨u, hu, -⟩ := exists_of_after h.2
  exact ⟨⟨t, ht⟩, u, hu⟩

/-- Both strategies. -/
theorem witness_TooLongResult :
    (Ready (world variantA) 0 ∧ ((world variantA).inst 0).configured = true ∧ ((world variantA).inst 0).strat = .register) ∧
    Ready (world (variantC 1)) 0 ∧ ((world (variantC 1)).inst 0).configured = true ∧
      ((world (variantC 1)).inst 0).strat = .bitbang :=
  ⟨⟨ready rfl (by decide), rfl, rfl⟩, ready rfl (by decide), rfl, rfl⟩

/-- Also of EncodeRecRoundTrip; the raw value that is normalised to 0 and one beside it. -/
theorem witness_Decode24Result :
    State.reset.halted = false ∧ (0x800000 : Raw24) = 0x800000 ∧ (0x800001 : Raw24) ≠ 0x800000 := by decide

/-- The clauses of DecodeAlwaysInRange at their ends. -/
theorem witness_DecodeAlwaysInRange :
    (0x7FFFFF : Raw24).toNat < 0x800000 ∧ (0x800000 : Raw24).toNat = 0x800000 ∧ 0x800000 < (0x800001 : Raw24).toNat ∧
      0x800000 < (0xFFFFFF : Raw24).toNat := by decide

theorem witness_BufResetResult : Ready State.reset 3 := ready rfl (by decide)

/-- An empty buffer, and one with room for one record. -/
theorem witness_BufAppendResult_fits :
    (Ready (world variantA) 0 ∧ ((world variantA).inst 0).used + 4 ≤ capBytes (world variantA).params) ∧
    Ready (world (holding variantA [1, 2, 3])) 0 ∧
      ((world (holding variantA [1, 2, 3])).inst 0).used + 4 ≤ capBytes (world (holding variantA [1, 2, 3])).params :=
  ⟨⟨ready rfl (by decide), by decide⟩, ready rfl (by decide), by decide⟩

/-- Also of BufFlushResult and SampleReportEmits. -/
theorem witness_BufAppendResult_full :
    let s := world (holding variantA [1, 2, 3, 4])
    Ready s 0 ∧ (s.inst 0).used = capBytes s.params ∧ 4 ≤ (s.inst 0).used ∧ (s.inst 0).used + 4 > capBytes s.params ∧
      (recordBytes [1, 2, 3, 4]).length = (s.inst 0).used ∧
      ∀ k, k < (s.inst 0).used → s.byteAt 0 k = (recordBytes [1, 2, 3, 4])[k]? :=
  ⟨ready rfl (by decide), by decide, by decide, by decide, by decide, by decide +kernel⟩

theorem witness_AppendsLoseNothing : Ready (world variantA) 0 ∧ Holds ((world variantA).inst 0) [] :=
  ⟨ready rfl (by decide), holds_nil rfl⟩

/-- One record, with a code set. -/
theorem witness_BufFlushResult_SampleReportEmits :
    let s := world { holding variantA [sentinel] with err := 1 }
    Ready s 0 ∧ 4 ≤ (s.inst 0).used ∧ (s.inst 0).err ≠ 0 ∧ (recordBytes [sentinel]).length = (s.inst 0).used ∧
      ∀ k, k < (s.inst 0).used → s.byteAt 0 k = (recordBytes [sentinel])[k]? :=
  ⟨ready rfl (by decide), by decide, by decide, by decide, by decide +kernel⟩

/-- Each clause: ready after the read (under both policies), late (at the budget), all ones, a sample. -/
theorem witness_ClassifyMatrix :
    let after (p : Policy) : Inst := { variantC 1 with policy := p, rafter := true }
    let late : Inst := { variantA with tdur := 2400 }
    let ones : Inst := { variantB with acc := 0xFFFFFF, tdur := 2399 }
    (Ready (world (after .escalateOnDesync)) 0 ∧ (after .escalateOnDesync).configured = true ∧
      (after .escalateOnDesync).strat = .bitbang ∧ (after .escalateOnDesync).rafter = true) ∧
    (Ready (world (after .alwaysRecoverable)) 0 ∧ (after .alwaysRecoverable).strat = .bitbang ∧
      (after .alwaysRecoverable).rafter = true ∧ ¬(after .alwaysRecoverable).policy = .escalateOnDesync) ∧
    (Ready (world late) 0 ∧ late.configured = true ∧ late.strat = .register ∧
      exampleParams.budgetRegTicks ≤ late.tdur.toNat) ∧
    (Ready (world ones) 0 ∧ ones.configured = true ∧ ones.strat = .register ∧
      ¬exampleParams.budgetRegTicks ≤ ones.tdur.toNat ∧ ones.policy = .escalateOnDesync ∧ ones.acc = 0xFFFFFF) ∧
    Ready (world variantA) 0 ∧ variantA.configured = true ∧ ¬exampleParams.budgetRegTicks ≤ variantA.tdur.toNat ∧
      ¬variantA.policy = .escalateOnDesync :=
  ⟨⟨ready rfl (by decide), by decide⟩, ⟨ready rfl (by decide), by decide⟩, ⟨ready rfl (by decide), by decide⟩,
    ⟨ready rfl (by decide), by decide⟩, ready rfl (by decide), by decide⟩

/-- An empty buffer and one with room for the sentinel. -/
theorem witness_EmitErrorResult_room :
    (Ready (world variantA) 0 ∧ Holds variantA [] ∧ variantA.used + 4 ≤ capBytes exampleParams) ∧
    Ready (world (holding variantA [1, 2, 3])) 0 ∧ Holds (holding variantA [1, 2, 3]) [1, 2, 3] ∧
      (holding variantA [1, 2, 3]).used + 4 ≤ capBytes exampleParams :=
  ⟨⟨ready rfl (by decide), holds_nil rfl, by decide⟩, ready rfl (by decide), by unfold Holds; decide +kernel, by decide⟩

theorem witness_EmitErrorResult_full :
    Ready (world (holding variantA [1, 2, 3, 4])) 0 ∧ Holds (holding variantA [1, 2, 3, 4]) [1, 2, 3, 4] ∧
      (holding variantA [1, 2, 3, 4]).used = capBytes exampleParams :=
  ⟨ready rfl (by decide), by unfold Holds; decide +kernel, by decide⟩

/-- With a consumer and without one. -/
theorem witness_FanoutDelivers_FatalHaltEntry :
    (Ready (world variantB) 0 ∧ ((world variantB).inst 0).endstopValid = true) ∧ Ready (world variantA) 0 ∧
      ((world variantA).inst 0).endstopValid = false :=
  ⟨⟨ready rfl (by decide), rfl⟩, ready rfl (by decide), rfl⟩

theorem witness_TimerArmResult : Ready (world (servicing variantA)) 0 ∧ ((world (servicing variantA)).inst 0).rest ≠ 0 :=
  ⟨ready rfl (by decide), by decide⟩

theorem witness_TimerCancelResult : Ready (world (armed variantA)) 0 := ready rfl (by decide)

/-- At the wake time, and at the last tick that counts as reached. -/
theorem witness_TimerFireResult :
    let s := given (world (armed variantA)) [6000] [] []
    let u := given (world (armed variantA)) [0x8000176F] [] []
    (Ready s 0 ∧ s.irqMasked = false ∧ (s.inst 0).configured = true ∧ (s.inst 0).tmrArmed = true ∧
      (s.nextTick - (s.inst 0).tmrWake).toNat < 2 ^ 31) ∧
    Ready u 0 ∧ u.irqMasked = false ∧ (u.inst 0).configured = true ∧ (u.inst 0).tmrArmed = true ∧
      (u.nextTick - (u.inst 0).tmrWake).toNat < 2 ^ 31 ∧ (u.nextTick - (u.inst 0).tmrWake).toNat + 1 = 2 ^ 31 :=
  ⟨⟨ready rfl (by decide), by decide +kernel⟩, ready rfl (by decide), by decide +kernel⟩

theorem witness_TaskBeginResult :
    let s := { world (servicing variantA) with wake := true }
    s.halted = false ∧ s.task = .idle ∧ s.wake = true ∧ s.nInst ≤ 256 := by decide

theorem witness_TaskVisitResult :
    let s := { world variantA with task := .pass [0, 1] }
    let u := { world (servicing variantA) with task := .pass [0, 1] }
    (Ready s 0 ∧ s.task = .pass [0, 1] ∧ (0 : Handle) ∈ [(0 : Handle), 1] ∧ (s.inst 0).pending = false) ∧
    Ready u 0 ∧ u.task = .pass [0, 1] ∧ (0 : Handle) ∈ [(0 : Handle), 1] ∧ (u.inst 0).pending = true :=
  ⟨⟨ready rfl (by decide), by decide⟩, ready rfl (by decide), by decide⟩

theorem witness_TaskEndResult :
    let s := { world variantA with task := .pass [] }
    s.halted = false ∧ s.task = .pass [] := by decide

theorem witness_ServiceDefers :
    let s := given (world (servicing variantA)) [6010] [true] []
    Ready s 0 ∧ (s.inst 0).pending = true ∧ s.nextLevel (s.inst 0).pinA = true :=
  ⟨ready rfl (by decide), by decide +kernel⟩

/-- The budget's last tick that is in time, with the last free slot and with none. -/
theorem witness_ServiceRegisterSample :
    let s (ws : List Word32) :=
      given (world (servicing (holding variantB ws))) [1000, 3399, 3400] [false] [⟨0xFF, 0xFF, 0xFE⟩]
    (∀ ws, Ready (s ws) 0 ∧ ((s ws).inst 0).pending = true ∧ ((s ws).inst 0).strat = .register ∧
      (s ws).nextLevel ((s ws).inst 0).pinA = false ∧
      ((s ws).tickAt ((s ws).env.tickPos + 1) - (s ws).nextTick).toNat < (s ws).params.budgetRegTicks ∧
      ¬(((s ws).inst 0).policy = .escalateOnDesync ∧ (s ws).nextSpi ((s ws).inst 0).pinB = ⟨0xFF, 0xFF, 0xFF⟩)) ∧
    ((s [1, 2, 3]).inst 0).used + 4 ≤ capBytes (s [1, 2, 3]).params ∧
    ((s [1, 2, 3, 4]).inst 0).used = capBytes (s [1, 2, 3, 4]).params ∧ Holds ((s [1, 2, 3, 4]).inst 0) [1, 2, 3, 4] :=
  ⟨fun ws => ⟨ready rfl (show 0 < 4 by decide), rfl, rfl, rfl, show ((3399 : Tick) - 1000).toNat < 2400 by decide,
    fun x => absurd (show (⟨0xFF, 0xFF, 0xFE⟩ : Bytes3) = ⟨0xFF, 0xFF, 0xFF⟩ from x.2) (by decide)⟩, by decide, by decide,
    by unfold Holds; decide +kernel⟩

/-- At the budget, with the last free slot and with none. -/
theorem witness_ServiceRegisterTooLong :
    let s (ws : List Word32) :=
      given (world (servicing (holding variantB ws))) [1000, 3400, 3500] [false] [⟨0xFF, 0xFF, 0xFF⟩]
    (∀ ws, Ready (s ws) 0 ∧ ((s ws).inst 0).pending = true ∧ ((s ws).inst 0).strat = .register ∧
      (s ws).nextLevel ((s ws).inst 0).pinA = false ∧
      (s ws).params.budgetRegTicks ≤ ((s ws).tickAt ((s ws).env.tickPos + 1) - (s ws).nextTick).toNat) ∧
    (((s [1, 2, 3]).inst 0).used + 4 ≤ capBytes (s [1, 2, 3]).params ∧ Holds ((s [1, 2, 3]).inst 0) [1, 2, 3]) ∧
    ((s [1, 2, 3, 4]).inst 0).used = capBytes (s [1, 2, 3, 4]).params ∧ Holds ((s [1, 2, 3, 4]).inst 0) [1, 2, 3, 4] :=
  ⟨fun ws => ⟨ready rfl (show 0 < 4 by decide), rfl, rfl, rfl, show 2400 ≤ ((3400 : Tick) - 1000).toNat by decide⟩,
    ⟨by decide, by unfold Holds; decide +kernel⟩, by decide, by unfold Holds; decide +kernel⟩

/-- A pending bit-bang instance that is ready, the bits of 0xFFFFFE, the level of the last poll, and the duration. -/
def train (policy : Policy) (ws : List Word32) (dur : Tick) (bit0 last : Bool) : State :=
  given (world (servicing { holding (variantC 3) ws with policy := policy })) [1000, 1000 + dur, 2000]
    (false :: List.replicate 23 true ++ [bit0, last]) []

/-- The hypotheses that every bit-bang cycle shares, and the 24 levels read. -/
theorem train_meets (policy : Policy) (ws : List Word32) (dur : Tick) (bit0 last : Bool) :
    let s := train policy ws dur bit0 last
    let raw : Raw24 := if bit0 then 0xFFFFFF else 0xFFFFFE
    Ready s 0 ∧ (s.inst 0).pending = true ∧ (s.inst 0).strat = .bitbang ∧ s.nextLevel (s.inst 0).pinA = false ∧
      (∀ k, 1 ≤ k → k ≤ 24 → raw.getLsbD (24 - k) = s.levelAt (s.inst 0).pinA (s.env.levelPos + k)) ∧
      s.levelAt (s.inst 0).pinA (s.env.levelPos + 25) = last := by
  refine ⟨ready rfl (show 0 < 4 by decide), rfl, rfl, rfl, fun k h1 h2 => ?_, rfl⟩
  cases bit0 <;> interval_cases k <;> rfl

/-- The bit-bang budget's last tick that is in time, with the last free slot and with none (the rest: train_meets). -/
theorem witness_ServiceBitBangSample :
    let s (ws : List Word32) := train .escalateOnDesync ws 799 false true
    ((s []).tickAt ((s []).env.tickPos + 1) - (s []).nextTick).toNat < (s []).params.budgetBbTicks ∧
    ¬(((s []).inst 0).policy = .escalateOnDesync ∧ (0xFFFFFE : Raw24) = 0xFFFFFF) ∧
    ((s [1, 2, 3]).inst 0).used + 4 ≤ capBytes (s [1, 2, 3]).params ∧
    ((s [1, 2, 3, 4]).inst 0).used = capBytes (s [1, 2, 3, 4]).params ∧ Holds ((s [1, 2, 3, 4]).inst 0) [1, 2, 3, 4] :=
  ⟨by decide +kernel, by decide, by decide, by decide, by unfold Holds; decide +kernel⟩

/-- Ready after the read under the lenient policy, and at the budget under the strict one; room and no room (the rest: train_meets). -/
theorem witness_ServiceBitBangError :
    let s (ws : List Word32) := train .alwaysRecoverable ws 10 false false
    let u (ws : List Word32) := train .escalateOnDesync ws 800 true true
    ((s []).inst 0).policy = .alwaysRecoverable ∧
    (u []).params.budgetBbTicks ≤ ((u []).tickAt ((u []).env.tickPos + 1) - (u []).nextTick).toNat ∧
    (((s [1, 2, 3]).inst 0).used + 4 ≤ capBytes (s [1, 2, 3]).params ∧ Holds ((s [1, 2, 3]).inst 0) [1, 2, 3]) ∧
    ((u [1, 2, 3, 4]).inst 0).used = capBytes (u [1, 2, 3, 4]).params ∧ Holds ((u [1, 2, 3, 4]).inst 0) [1, 2, 3, 4] :=
  ⟨rfl, by decide +kernel, ⟨by decide, by unfold Holds; decide +kernel⟩, by decide, by unfold Holds; decide +kernel⟩

/-- Both causes; the second at the last tick that is in time (the rest: train_meets). -/
theorem witness_ServiceBitBangHalts :
    let s := train .escalateOnDesync [] 799 true true
    (s.inst 0).policy = .escalateOnDesync ∧ ((train .escalateOnDesync [] 800 false false).inst 0).policy = .escalateOnDesync ∧
      (s.tickAt (s.env.tickPos + 1) - s.nextTick).toNat < s.params.budgetBbTicks := by
  refine ⟨rfl, rfl, ?_⟩
  decide +kernel

theorem witness_ServiceAllOnesHalts :
    let s := given (world (servicing variantB)) [1130, 1220] [false] [⟨0xFF, 0xFF, 0xFF⟩]
    Ready s 0 ∧ (s.inst 0).pending = true ∧ (s.inst 0).strat = .register ∧ (s.inst 0).policy = .escalateOnDesync ∧
      s.nextLevel (s.inst 0).pinA = false ∧
      (s.tickAt (s.env.tickPos + 1) - s.nextTick).toNat < s.params.budgetRegTicks ∧
      s.nextSpi (s.inst 0).pinB = ⟨0xFF, 0xFF, 0xFF⟩ :=
  ⟨ready rfl (by decide), by decide +kernel⟩

/-! ### A sound state with one instance that has work -/

/-- One instance, and the task in a pass that has yet to visit it. -/
def single (i : Inst) : State := { State.powerOn 1 exampleParams with insts := [i], task := .pass [0] }

theorem single_handle {i : Inst} {h : Handle} (hh : h.toNat < (single i).nInst) : h = 0 := by
  have h1 : h.toNat < 1 := hh
  exact BitVec.eq_of_toNat_eq (by rw [show (0 : Handle).toNat = 0 from rfl]; omega)

/-- The single instance makes a sound state when it is sound itself, a configured REGISTER instance. -/
theorem single_sound {i : Inst} (hi : InstOk exampleParams false i) (hc : i.configured = true) (hs : i.strat = .register) :
    Sound (single i) where
  params := show paramsWf exampleParams by decide
  count := ⟨Nat.le_refl 1, show 1 ≤ 256 by decide⟩
  insts h hh := by
    obtain rfl := single_handle hh
    exact hi
  unmasked := rfl
  haltClear _ := ⟨rfl, rfl⟩
  haltSet hx := by cases hx
  pass S hS := by
    cases hS
    refine ⟨by decide, fun h hh => ?_⟩
    obtain rfl : h = 0 := by simpa using hh
    exact ⟨Nat.one_pos, hc⟩
  wake h hh _ := by
    obtain rfl := single_handle hh
    exact .inr ⟨[0], rfl, by decide⟩
  pinsForm := List.Pairwise.nil
  clockLow h hh _ hb := by
    obtain rfl := single_handle hh
    have hb' : i.strat = .bitbang := hb
    rw [hs] at hb'
    cases hb'
  reports r hr := by cases hr

/-- A sound state stays sound with other answers, another schedule and other presented words. -/
theorem sound_of_world {s : State} (a : Sound s) (env : Env) (sched : List Agent) (port : List Cmd64) :
    Sound { s with env := env, sched := sched, port := port } :=
  ⟨a.params, a.count, a.insts, a.unmasked, a.haltClear, a.haltSet, a.pass, a.wake, a.pinsForm, a.clockLow, a.reports⟩

/-- Variant A with two counts in its buffer. -/
def base : Inst := holding variantA [1, 0xFFFFFFFF]

/-- That instance in any phase. -/
theorem busy_ok {i : Inst} (hs : i.strat = .register) (hg : i.gainsel = 0) (hc : i.configured = true)
    (hv : i.endstopValid = false) (hb : i.buf = base.buf) (hu : i.used = base.used) (he : i.err = 0) (hp : PhaseOk i) :
    InstOk exampleParams false i where
  selector _ := .inr ⟨hs, hg⟩
  consumer hx := by
    rw [hv] at hx
    cases hx
  fresh hx := by
    rw [hc] at hx
    cases hx
  phase _ := hp
  errZero := he
  bufForm := by
    rw [hb]
    exact writeBytes_wf List.Pairwise.nil _ _
  bufInside := by
    rw [hb]
    decide +kernel
  usedLe := by
    rw [hu]
    decide
  records := by
    refine ⟨[1, 0xFFFFFFFF], ?_, fun w hw => ?_⟩
    · unfold Holds
      rw [hb, hu]
      decide +kernel
    · have h1 : IsCount 1 := decodeCount_isCount 0x000001
      have h2 : IsCount 0xFFFFFFFF := decodeCount_isCount 0xFFFFFF
      simp only [List.mem_cons, List.not_mem_nil, or_false] at hw
      rcases hw with rfl | rfl
      · exact h1
      · exact h2

/-- The instance is due for its service. -/
def due : Inst := servicing base

/-- The instance waits for its timer. -/
def waiting : Inst := armed base

theorem due_sound : Sound (single due) :=
  single_sound (busy_ok rfl rfl rfl rfl rfl rfl rfl (by unfold PhaseOk; decide)) rfl rfl

theorem waiting_sound : Sound (single waiting) :=
  single_sound (busy_ok rfl rfl rfl rfl rfl rfl rfl (by unfold PhaseOk; decide)) rfl rfl

/-- Scripted answers for a cycle that takes a sample. -/
def sampleEnv : Env :=
  { Env.reset with ticks := [9040, 9130, 9140], levels := [false], spi := [⟨0x00, 0x01, 0xF4⟩] }

theorem witness_ServiceFourOutcomes :
    let s := single due
    Sound s ∧ Ready s 0 ∧ (s.inst 0).pending = true ∧ Holds (s.inst 0) [1, 0xFFFFFFFF] :=
  ⟨due_sound, ready rfl (by decide), rfl, by unfold Holds; decide +kernel⟩

/-- Also of PhaseTransitions, its second clause: a visit takes the instance from servicing to armed. -/
theorem witness_StepKeepsSound :
    let s : State := { single due with env := sampleEnv, sched := [.taskVisit 0], port := [] }
    Sound s ∧ ∃ t, step s = .next t ∧ s.nextAgent = .taskVisit 0 ∧ (0 : Handle).toNat < s.nInst ∧
      (s.inst 0).configured = true ∧ (s.inst 0).phase = .servicing ∧ (t.inst 0).phase = .armed := by
  refine ⟨sound_of_world due_sound _ _ _, ?_⟩
  have h : (after (step { single due with env := sampleEnv, sched := [.taskVisit 0], port := [] })
      fun t => (t.inst 0).phase = .armed) = true := by decide +kernel
  obtain ⟨t, ht, hp⟩ := exists_of_after h
  exact ⟨t, ht, rfl, by decide, rfl, rfl, by simpa using hp⟩

/-- The first clause: the timer takes the instance from armed to servicing. -/
theorem witness_PhaseTransitions_timer :
    let s : State := { single waiting with env := { Env.reset with ticks := [6000] }, sched := [.timer 0], port := [] }
    Sound s ∧ ∃ t, step s = .next t ∧ s.nextAgent = .timer 0 ∧ (0 : Handle).toNat < s.nInst ∧
      (s.inst 0).configured = true ∧ (s.inst 0).phase = .armed ∧ (t.inst 0).phase = .servicing := by
  refine ⟨sound_of_world waiting_sound _ _ _, ?_⟩
  have h : (after (step { single waiting with env := { Env.reset with ticks := [6000] }, sched := [.timer 0], port := [] })
      fun t => (t.inst 0).phase = .servicing) = true := by decide +kernel
  obtain ⟨t, ht, hp⟩ := exists_of_after h
  exact ⟨t, ht, rfl, by decide, rfl, rfl, by simpa using hp⟩

/-- The third clause: the host stops a running instance. -/
theorem witness_PhaseTransitions_command :
    let s : State := { single waiting with task := .idle, sched := [.host], port := [0x0300000000000000] }
    Sound s ∧ ∃ t, step s = .next t ∧ s.nextAgent = .host ∧ (0 : Handle).toNat < s.nInst ∧
      (s.inst 0).configured = true ∧ (s.inst 0).phase = .armed ∧ (t.inst 0).phase = .stopped := by
  have a := waiting_sound
  refine ⟨⟨a.params, a.count, a.insts, a.unmasked, a.haltClear, a.haltSet, by simp, fun h hh hp => ?_, a.pinsForm, a.clockLow,
    a.reports⟩, ?_⟩
  · obtain rfl := single_handle hh
    cases hp
  · have h : (after (step { single waiting with task := .idle, sched := [.host], port := [0x0300000000000000] })
        fun t => (t.inst 0).phase = .stopped) = true := by decide +kernel
    obtain ⟨t, ht, hp⟩ := exists_of_after h
    exact ⟨t, ht, rfl, by decide, rfl, rfl, by simpa using hp⟩

theorem witness_ResetIsSound : 1 ≤ 1 ∧ 1 ≤ 256 ∧ 256 ≤ 256 ∧ paramsWf exampleParams := by decide

theorem witness_ConfigurationImmutable :
    let s : State := { single due with env := sampleEnv, sched := [.taskVisit 0], port := [] }
    ∃ t, step s = .next t ∧ s.nextAgent ≠ .powerOn ∧ (s.inst 0).configured = true := by
  obtain ⟨-, t, ht, ha, -, hc, -⟩ := witness_StepKeepsSound
  exact ⟨t, ht, by rw [ha]; decide, hc⟩

theorem witness_TimerFireCommutesWithService : (1 : Handle) ≠ 0 := by decide

theorem witness_UnconfiguredInstanceRuns :
    (Ready State.reset 0 ∧ (State.reset.inst 0).configured = false ∧ (State.reset.inst 0).strat = .register) ∧
    let u (gain : BitVec 3) := world { variantC gain with configured := false }
    (Ready (u 1) 0 ∧ ((u 1).inst 0).configured = false ∧ ((u 1).inst 0).strat = .bitbang ∧
      1 ≤ ((u 1).inst 0).gainsel.toNat) ∧ ((u 4).inst 0).gainsel.toNat ≤ 4 :=
  ⟨⟨ready rfl (by decide), rfl, rfl⟩, ⟨ready rfl (by decide), rfl, rfl, by decide⟩, by decide⟩

/-- Each clause of OperandStops; the timer's at the last tick that counts as still to come. -/
theorem witness_OperandStops :
    let early := given (world (armed variantA)) [0x80001770] [] []
    (Ready (world variantA) 0 ∧ variantA.rest = 0 ∧ variantA.pending = false ∧ variantA.strat = .register ∧
      variantA.used < 4 ∧ variantA.tmrArmed = false ∧ (world variantA).task ≠ .pass [] ∧
      (world variantA).wake = false ∧ variantA.used + 4 ≤ capBytes exampleParams ∧ variantA.err = 0) ∧
    (Ready (world (variantC 5)) 0 ∧ (variantC 5).strat = .bitbang ∧
      5 ≤ (variantC 5).gainsel.toNat ∧ (variantC 0).gainsel.toNat = 0) ∧
    (Ready (world { variantA with err := 1 }) 0 ∧ variantA.used < 4 ∧ (1 : Byte) ≠ 0) ∧
    (∀ S, (world variantA).task = .pass S → (0 : Handle) ∉ S) ∧
    Ready early 0 ∧ 2 ^ 31 ≤ (early.nextTick - (early.inst 0).tmrWake).toNat :=
  ⟨⟨ready rfl (by decide), by decide⟩, ⟨ready rfl (by decide), by decide⟩, ⟨ready rfl (by decide), by decide⟩,
    by simp [world, State.reset, State.powerOn], ready rfl (by decide), by decide +kernel⟩

end Sys2Proof.Tests
end

section
/-! The readiness gate (40_readiness_gate.md R130): what READY_POLL answers, leaves unchanged and does at the boundary. CONFIGURED
plays no part in any of it, so the facts hold of every instance of a running block. -/

namespace Sys2Proof.Machine

variable {s : State} {h : Handle}

/-! ### What the poll leaves unchanged, and its one event -/

@[simp] theorem readyPoll_inst (s : State) (h k : Handle) : (readyPoll s h).inst k = s.inst k := rfl

@[simp] theorem readyPoll_pins (s : State) (h : Handle) : (readyPoll s h).pins = s.pins := rfl

@[simp] theorem readyPoll_irqMasked (s : State) (h : Handle) : (readyPoll s h).irqMasked = s.irqMasked := rfl

theorem readyPoll_outside (s : State) (h : Handle) : SameOutside h s (readyPoll s h) := (SameOutside.refl h s).pinRead _

theorem readyPoll_trace (s : State) (h : Handle) :
    (readyPoll s h).trace = s.trace ++ [.pinRead (s.inst h).pinA (s.nextLevel (s.inst h).pinA)] :=
  s.pinRead_trace _

/-! ### The answer -/

/-- The pin is active low (R130). -/
theorem readyNow_eq_ite (s : State) (h : Handle) :
    readyNow s h = if s.nextLevel (s.inst h).pinA = false then true else false := by
  unfold readyNow
  cases s.nextLevel (s.inst h).pinA
  · rfl
  · rfl

/-! ### READY_POLL run on its own -/

theorem exec_readyPoll_of_ready (hr : Ready s h) :
    exec (.readyPoll h) s = .next ((readyPoll s h).setRet (.bit (readyNow s h))) :=
  onInst_of hr _

/-- READY_POLL with its answer and its frame, whatever CONFIGURED is. -/
theorem exec_readyPoll_result (hr : Ready s h) :
    ∃ t, exec (.readyPoll h) s = .next t ∧
      t.ret = .bit (if s.nextLevel (s.inst h).pinA = false then true else false) ∧ t.inst h = s.inst h ∧ SameOutside h s t ∧
      SameMemory s t ∧ t.pins = s.pins ∧ t.irqMasked = s.irqMasked ∧
      t.trace = s.trace ++ [.pinRead (s.inst h).pinA (s.nextLevel (s.inst h).pinA)] := by
  have outside : SameOutside h s ((readyPoll s h).setRet (.bit (readyNow s h))) := (readyPoll_outside s h).setRet _
  refine ⟨_, exec_readyPoll_of_ready hr, ?_, readyPoll_inst s h h, outside, SameMemory.of_outside outside (by simp),
    readyPoll_pins s h, readyPoll_irqMasked s h, ?_⟩
  · rw [State.setRet_ret, readyNow_eq_ite]
  · rw [State.setRet_trace, readyPoll_trace]

/-- Settles O20: the hypothesis that the instance is configured is not needed. -/
theorem readyPollResult : Obligations.ReadyPollResult := by
  unfold Obligations.ReadyPollResult
  intro s h hr _
  exact exec_readyPoll_result hr

end Sys2Proof.Machine
end

section
/-! The transfer engine (41_transfer_engine.md R140, R143, R144): XFER_REG, BB_PULSE and TOO_LONG run on their own. CONFIGURED plays no
part in any of them, so each result holds of every instance of a running block. -/

namespace Sys2Proof.Machine

variable {s : State} {h : Handle}

/-! ### XFER_REG -/

theorem exec_xferReg_of_ready (hr : Ready s h) (hst : (s.inst h).strat = .register) :
    exec (.xferReg h) s = .next (xferReg s h) := by
  have guards : exec (.xferReg h) s = within ((s.inst h).strat = .register) (.next (xferReg s h)) := onInst_of hr _
  rw [guards, decide_eq_true hst, within_true]

theorem xferReg_memory (hh : h.toNat < s.nInst) : SameMemory s (xferReg s h) :=
  SameMemory.of_outside (xferReg_outside s h) (by rw [xferReg_inst hh])

/-- XFER_REG on a REGISTER instance, whatever CONFIGURED is. -/
theorem exec_xferReg_result (hr : Ready s h) (hst : (s.inst h).strat = .register) :
    ∃ t, exec (.xferReg h) s = .next t ∧
      t.inst h =
        { s.inst h with
          tstart := s.nextTick
          tdur := s.tickAt (s.env.tickPos + 1) - s.nextTick
          acc := (s.nextSpi (s.inst h).pinB).b0 ++ (s.nextSpi (s.inst h).pinB).b1 ++ (s.nextSpi (s.inst h).pinB).b2
          rafter := false } ∧
      SameOutside h s t ∧ SameMemory s t ∧ t.pins = s.pins ∧ t.irqMasked = false ∧
      t.trace = s.trace ++
        [.irqMask, .now s.nextTick, .irqUnmask,
          .spiXfer (s.inst h).pinB s.params.spiMode s.params.spiTx (s.nextSpi (s.inst h).pinB),
          .now (s.tickAt (s.env.tickPos + 1))] := by
  have hh : h.toNat < s.nInst := hr.2
  exact ⟨_, exec_xferReg_of_ready hr hst, xferReg_inst hh, xferReg_outside s h, xferReg_memory hh, xferReg_pins s h,
    xferReg_irqMasked s h, xferReg_trace hh⟩

/-- Settles O21: the hypothesis that the instance is configured is not needed. -/
theorem xferRegResult : Obligations.XferRegResult := by
  unfold Obligations.XferRegResult
  intro s h hr _ hst
  exact exec_xferReg_result hr hst

/-! ### BB_PULSE -/

theorem exec_bbPulse_of_ready (hr : Ready s h) (sample first : Bool) :
    exec (.bbPulse h sample first) s =
      .next ((bbPulse s h sample first).setRet (.bit (pulseBit s h sample first))) :=
  onInst_of hr _

/-- A pulse writes TSTART at most. -/
theorem bbPulse_buf (hh : h.toNat < s.nInst) (sample first : Bool) :
    ((bbPulse s h sample first).inst h).buf = (s.inst h).buf := by
  rw [bbPulse_inst hh]
  split
  · rfl
  · rfl

/-- BB_PULSE with its answer and its frame, whatever CONFIGURED and the strategy are. -/
theorem exec_bbPulse_result (hr : Ready s h) (sample first : Bool) :
    ∃ t, exec (.bbPulse h sample first) s = .next t ∧
      t.ret = .bit (if sample then s.nextLevel (s.inst h).pinA else false) ∧
      t.inst h = (if first then { s.inst h with tstart := s.nextTick } else s.inst h) ∧ SameOutside h s t ∧ SameMemory s t ∧
      (∀ q, t.pinLevel q = if q = (s.inst h).pinB then some false else s.pinLevel q) ∧ t.irqMasked = false ∧
      t.trace = s.trace ++ pulseEvents s h sample first := by
  have hh : h.toNat < s.nInst := hr.2
  have outside : SameOutside h s ((bbPulse s h sample first).setRet (.bit (pulseBit s h sample first))) :=
    (bbPulse_outside s h sample first).setRet _
  refine ⟨_, exec_bbPulse_of_ready hr sample first, ?_, bbPulse_inst hh sample first, outside,
    SameMemory.of_outside outside (bbPulse_buf hh sample first), bbPulse_pinLevel hh sample first,
    bbPulse_irqMasked s h sample first, bbPulse_trace hh sample first⟩
  rw [State.setRet_ret, bbPulse_bit]

/-- Settles O22: the hypothesis that the instance is configured is not needed. -/
theorem bbPulseResult : Obligations.BbPulseResult := by
  unfold Obligations.BbPulseResult
  intro s h sample first hr _
  exact exec_bbPulse_result hr sample first

/-! ### TOO_LONG -/

/-- The comparison includes the budget itself (R144). -/
theorem durationTooLong_iff (p : Params) (i : Inst) : durationTooLong p i = true ↔ budgetTicks p i ≤ i.tdur.toNat :=
  decide_eq_true_iff

theorem budgetTicks_register {i : Inst} (hst : i.strat = .register) (p : Params) : budgetTicks p i = p.budgetRegTicks := by
  rw [budgetTicks, hst]

theorem budgetTicks_bitbang {i : Inst} (hst : i.strat = .bitbang) (p : Params) : budgetTicks p i = p.budgetBbTicks := by
  rw [budgetTicks, hst]

theorem exec_tooLong_of_ready (hr : Ready s h) :
    exec (.tooLong h) s = .next { s with ret := .bit (durationTooLong s.params (s.inst h)) } :=
  onInst_of hr _

/-- TOO_LONG by the strategy, whatever CONFIGURED is. -/
theorem exec_tooLong_result (hr : Ready s h) :
    ∃ b, exec (.tooLong h) s = .next { s with ret := .bit b } ∧
      ((s.inst h).strat = .register → (b = true ↔ s.params.budgetRegTicks ≤ (s.inst h).tdur.toNat)) ∧
      ((s.inst h).strat = .bitbang → (b = true ↔ s.params.budgetBbTicks ≤ (s.inst h).tdur.toNat)) := by
  refine ⟨_, exec_tooLong_of_ready hr, fun hst => ?_, fun hst => ?_⟩
  · rw [durationTooLong_iff, budgetTicks_register hst]
  · rw [durationTooLong_iff, budgetTicks_bitbang hst]

/-- Settles O25: the hypothesis that the instance is configured is not needed. -/
theorem tooLongResult : Obligations.TooLongResult := by
  unfold Obligations.TooLongResult
  intro s h hr _
  exact exec_tooLong_result hr

end Sys2Proof.Machine
end

section
/-! The sample decoder (42_sample_decoder.md R170 to R173): the count of every raw value by its three cases, the record's bytes, and
DECODE24 and ENCODE_REC run on their own. -/

namespace Sys2Proof.Machine

variable {s : State}

/-! ### The count as a number (R171) -/

theorem decodeCount_negZero : decodeCount 0x800000 = 0 := by rw [decodeCount_eq, if_pos rfl]

theorem decodeCount_of_ne {r : Raw24} (hr : r ≠ 0x800000) : decodeCount r = r.signExtend 32 := by
  rw [decodeCount_eq, if_neg hr]

/-- Sign extension keeps the signed value, so the count is the two's complement reading of the 24 bits. -/
theorem decodeCount_toInt_of_ne {r : Raw24} (hr : r ≠ 0x800000) : (decodeCount r).toInt = r.toInt := by
  rw [decodeCount_of_ne hr, BitVec.toInt_signExtend_of_le (by decide)]

theorem decodeCount_toInt_below {r : Raw24} (hr : r.toNat < 0x800000) : (decodeCount r).toInt = r.toNat := by
  have hne : r ≠ 0x800000 := fun e => absurd hr (by rw [e]; decide)
  rw [decodeCount_toInt_of_ne hne, BitVec.toInt_eq_toNat_of_lt (by omega)]

theorem decodeCount_toInt_above {r : Raw24} (hr : 0x800000 < r.toNat) :
    (decodeCount r).toInt = (r.toNat : Int) - 2 ^ 24 := by
  have hne : r ≠ 0x800000 := fun e => absurd hr (by rw [e]; decide)
  rw [decodeCount_toInt_of_ne hne, BitVec.toInt_eq_toNat_cond, if_neg (by omega)]
  rfl

theorem decodeCount_eq_zero_iff (r : Raw24) : decodeCount r = 0 ↔ r = 0 ∨ r = 0x800000 := by
  constructor
  · intro h0
    by_cases hr : r = 0x800000
    · exact .inr hr
    · have hint : r.toInt = 0 := by rw [← decodeCount_toInt_of_ne hr, h0]; rfl
      exact .inl (BitVec.eq_of_toInt_eq hint)
  · rintro (rfl | rfl)
    · rfl
    · exact decodeCount_negZero

/-- Settles O27, from the count in each of the three cases. -/
theorem decodeAlwaysInRange : Obligations.DecodeAlwaysInRange := by
  unfold Obligations.DecodeAlwaysInRange
  intro r
  have hlt : r.toNat < 2 ^ 24 := r.isLt
  refine ⟨decodeOor_false r, fun below => ⟨decodeCount_toInt_below below, by omega⟩, fun middle => ?_, fun above => ?_,
    decodeCount_eq_zero_iff r⟩
  · have hr : r = 0x800000 := BitVec.eq_of_toNat_eq middle
    rw [hr, decodeCount_negZero]
    rfl
  · have count := decodeCount_toInt_above above
    exact ⟨count, by omega, by omega⟩

/-! ### DECODE24 run on its own -/

theorem exec_decode24_of_running (hs : s.halted = false) (r : Raw24) :
    exec (.decode24 r) s = .next { s with ret := .decoded (decodeCount r) (decodeOor r) } :=
  running_of hs _

/-- The range check of R170 as a comparison of signed numbers. -/
theorem outOfRange_iff (w : Word32) : outOfRange w = true ↔ w.toInt < -0x7FFFFF ∨ w.toInt > 0x7FFFFF := by
  rw [outOfRange, Bool.or_eq_true, decide_eq_true_iff, decide_eq_true_iff]
  rfl

/-- Settles O26. -/
theorem decode24Result : Obligations.Decode24Result := by
  unfold Obligations.Decode24Result
  intro s r hs
  refine ⟨_, _, exec_decode24_of_running hs r, ?_, decodeCount_of_ne, outOfRange_iff (decodeCount r)⟩
  rintro rfl
  exact decodeCount_negZero

/-! ### ENCODE_REC and the host's inverse -/

theorem exec_encodeRec_of_running (hs : s.halted = false) (w : Word32) :
    exec (.encodeRec w) s = .next { s with ret := .bytes (encodeRec w) } :=
  running_of hs _

theorem assembleRec_toNat (b0 b1 b2 b3 : Byte) :
    (assembleRec b0 b1 b2 b3).toNat = b0.toNat + b1.toNat * 2 ^ 8 + b2.toNat * 2 ^ 16 + b3.toNat * 2 ^ 24 := by
  simp only [assembleRec, Laws.append_toNat]
  omega

/-- The four bytes are the base-256 digits of the word (R172). -/
theorem toNat_eq_sum_bytes (w : Word32) :
    w.toNat = (w.extractLsb' 0 8).toNat + (w.extractLsb' 8 8).toNat * 2 ^ 8 + (w.extractLsb' 16 8).toNat * 2 ^ 16 +
      (w.extractLsb' 24 8).toNat * 2 ^ 24 := by
  have hlt : w.toNat < 2 ^ 32 := w.isLt
  simp only [BitVec.extractLsb'_toNat, Nat.shiftRight_eq_div_pow]
  omega

/-- R173, as equality of two sums of the same digits. -/
theorem assembleRec_bytes (w : Word32) :
    assembleRec (w.extractLsb' 0 8) (w.extractLsb' 8 8) (w.extractLsb' 16 8) (w.extractLsb' 24 8) = w :=
  BitVec.eq_of_toNat_eq ((assembleRec_toNat ..).trans (toNat_eq_sum_bytes w).symm)

/-- Settles O28. -/
theorem encodeRecRoundTrip : Obligations.EncodeRecRoundTrip := by
  unfold Obligations.EncodeRecRoundTrip
  intro s w hs
  exact ⟨_, _, _, _, exec_encodeRec_of_running hs w, assembleRec_bytes w, toNat_eq_sum_bytes w⟩

end Sys2Proof.Machine
end

section
/-! The sample buffer (43_sample_buffer.md R190 to R192): BUF_RESET, BUF_APPEND and BUF_FLUSH run on their own. The laws of the buffer
say what each does to the instance; here they are read through the guards, and the buffer's bytes byte by byte. -/

namespace Sys2Proof.Machine

variable {s t : State} {h : Handle} {w : Word32} {data : List Byte}

/-! ### BUF_RESET -/

theorem exec_bufReset_of_ready (hr : Ready s h) : exec (.bufReset h) s = .next (bufReset s h) := onInst_of hr _

/-- Only USED and ERR are written, so every byte stays (R190). -/
theorem bufReset_memory (hh : h.toNat < s.nInst) : SameMemory s (bufReset s h) :=
  SameMemory.of_outside (bufReset_outside s h) (by rw [bufReset_inst hh])

/-- Settles O29. -/
theorem bufResetResult : Obligations.BufResetResult := by
  unfold Obligations.BufResetResult
  intro s h hr
  have hh : h.toNat < s.nInst := hr.2
  exact ⟨_, exec_bufReset_of_ready hr, bufReset_inst hh, bufReset_outside s h, bufReset_memory hh, rfl, rfl, rfl⟩

/-! ### BUF_FLUSH -/

theorem exec_bufFlush_of_ok (hr : Ready s h) (ht : bufFlush s h = .ok t) : exec (.bufFlush h) s = .next t := by
  have guards : exec (.bufFlush h) s = ofExcept (bufFlush s h) := onInst_of hr _
  rw [guards, ht, ofExcept_ok]

/-- A buffer operation that ends with the bytes it began with changes no memory. -/
theorem BufferStep.memory {used : Nat} {err : Byte} {es : List Event}
    (a : BufferStep h s t (s.inst h).buf used err es) : SameMemory s t :=
  SameMemory.of_outside a.outside (by rw [a.inst])

/-- Settles O32. -/
theorem bufFlushResult : Obligations.BufFlushResult := by
  unfold Obligations.BufFlushResult
  intro s h data hr hu hl hd
  obtain ⟨t, ht, a⟩ := bufFlush_ok hr.2 hu (readBytes_of_bytes hl hd)
  exact ⟨t, exec_bufFlush_of_ok hr ht, a.inst, a.outside, a.memory, a.pins, a.irqMasked, a.trace⟩

/-! ### BUF_APPEND -/

theorem exec_bufAppend_of_ok (hr : Ready s h) (ht : bufAppend s h w = .ok t) : exec (.bufAppend h w) s = .next t := by
  have guards : exec (.bufAppend h w) s = ofExcept (bufAppend s h w) := onInst_of hr _
  rw [guards, ht, ofExcept_ok]

/-- The bytes after a buffer operation that stored a record at `a`. -/
theorem BufferStep.bytes {a used : Nat} {err : Byte} {es : List Event}
    (b : BufferStep h s t (writeBytes (s.inst h).buf a (encodeRec w)) used err es) :
    (∀ j, j < 4 → t.byteAt h (a + j) = some (w.extractLsb' (8 * j) 8)) ∧
    ∀ k x, ¬(k = h ∧ a ≤ x ∧ x < a + 4) → t.byteAt k x = s.byteAt k x :=
  bytes_of_store b.outside (by rw [b.inst])

/-- BUF_APPEND where the record fits: the record at USED, no report (R191). -/
theorem exec_bufAppend_room (hr : Ready s h) (room : (s.inst h).used + 4 ≤ capBytes s.params) (w : Word32) :
    ∃ t m, exec (.bufAppend h w) s = .next t ∧ t.inst h = { s.inst h with buf := m, used := (s.inst h).used + 4 } ∧
      SameOutside h s t ∧ t.pins = s.pins ∧ t.irqMasked = s.irqMasked ∧ t.trace = s.trace ∧
      (∀ j, j < 4 → t.byteAt h ((s.inst h).used + j) = some (w.extractLsb' (8 * j) 8)) ∧
      (∀ k a, ¬(k = h ∧ (s.inst h).used ≤ a ∧ a < (s.inst h).used + 4) → t.byteAt k a = s.byteAt k a) := by
  obtain ⟨t, ht, a⟩ := bufAppend_room hr.2 room w
  obtain ⟨stored, kept⟩ := a.bytes
  have silent : t.trace = s.trace := by rw [a.trace, List.append_nil]
  exact ⟨t, _, exec_bufAppend_of_ok hr ht, a.inst, a.outside, a.pins, a.irqMasked, silent, stored, kept⟩

/-- BUF_APPEND on a full buffer: the report of all the bytes held, then the record at offset 0 (R191). -/
theorem exec_bufAppend_full (hr : Ready s h) (full : (s.inst h).used = capBytes s.params)
    (held : readBytes (s.inst h).buf 0 (s.inst h).used = some data) (w : Word32) :
    ∃ t m, exec (.bufAppend h w) s = .next t ∧ t.inst h = { s.inst h with buf := m, used := 4 } ∧ SameOutside h s t ∧
      t.pins = s.pins ∧ t.irqMasked = s.irqMasked ∧ t.trace = s.trace ++ [flushReport s h data] ∧
      (∀ j, j < 4 → t.byteAt h j = some (w.extractLsb' (8 * j) 8)) ∧
      (∀ k a, ¬(k = h ∧ a < 4) → t.byteAt k a = s.byteAt k a) := by
  obtain ⟨t, ht, a⟩ := bufAppend_full hr.2 full held w
  obtain ⟨stored, kept⟩ := a.bytes
  simp only [Nat.zero_add, Nat.zero_le, true_and] at stored kept
  exact ⟨t, _, exec_bufAppend_of_ok hr ht, a.inst, a.outside, a.pins, a.irqMasked, a.trace, stored, kept⟩

/-- Settles O30, from the append that fits and the append that finds the buffer full. -/
theorem bufAppendResult : Obligations.BufAppendResult := by
  unfold Obligations.BufAppendResult
  intro s h w hr
  exact ⟨fun room => exec_bufAppend_room hr room w,
    fun _ full hl hd => exec_bufAppend_full hr full (readBytes_of_bytes hl hd) w⟩

end Sys2Proof.Machine
end

section
/-! The error classifier (44_error_classifier.md R210 to R214): CLASSIFY and EMIT_ERROR run on their own. The verdict is a function of
the fields alone, so it is said once as a chain of its tests; the buffer laws say what EMIT_ERROR appends and reports. -/

namespace Sys2Proof.Machine

variable {s t : State} {h : Handle} {i : Inst}

/-! ### The verdict (R210, R211) -/

theorem escalate_of_strict (strict : i.policy = .escalateOnDesync) (cause : FatalCause) (code : ErrorCode) :
    escalate i cause code = .fatal cause := if_pos (decide_eq_true strict)

theorem escalate_of_lenient (lenient : ¬i.policy = .escalateOnDesync) (cause : FatalCause) (code : ErrorCode) :
    escalate i cause code = .recoverable code := if_neg (by rwa [Inst.strict, decide_eq_true_iff])

/-- The budget test with the budget of each strategy written out (R144). -/
theorem durationTooLong_iff_late (p : Params) (i : Inst) :
    durationTooLong p i = true ↔
      (i.strat = .register ∧ p.budgetRegTicks ≤ i.tdur.toNat) ∨ (i.strat = .bitbang ∧ p.budgetBbTicks ≤ i.tdur.toNat) := by
  rw [durationTooLong_iff]
  cases hst : i.strat with
  | register => simp [budgetTicks_register hst]
  | bitbang => simp [budgetTicks_bitbang hst]

/-- The tests of R210 in their order. The out-of-range test is not among them: no 24-bit value fails it (R171). -/
theorem classifyVerdict_eq (p : Params) (i : Inst) :
    classifyVerdict p i =
      if i.strat = .bitbang ∧ i.rafter = true then escalate i .readyAfterRead .readyAfterRead
      else if durationTooLong p i = true then .recoverable .transferTooLong
      else if i.policy = .escalateOnDesync ∧ i.acc = allOnes then .fatal .allOnes
      else .sample := by
  simp [classifyVerdict, decodeOor_false, Inst.strict]

theorem escalate_ne_sample (i : Inst) (cause : FatalCause) (code : ErrorCode) : escalate i cause code ≠ .sample := by
  unfold escalate
  split
  · exact Verdict.noConfusion
  · exact Verdict.noConfusion

/-- A sample is what every test lets through. -/
theorem classifyVerdict_eq_sample_iff (p : Params) (i : Inst) :
    classifyVerdict p i = .sample ↔
      ¬(i.strat = .bitbang ∧ i.rafter = true) ∧ ¬durationTooLong p i = true ∧
        ¬(i.policy = .escalateOnDesync ∧ i.acc = allOnes) := by
  rw [classifyVerdict_eq]
  split
  case isTrue after => exact iff_of_false (escalate_ne_sample i _ _) fun ⟨notAfter, _⟩ => notAfter after
  case isFalse notAfter =>
    split
    case isTrue late => exact iff_of_false Verdict.noConfusion fun ⟨_, inTime, _⟩ => inTime late
    case isFalse inTime =>
      split
      case isTrue ones => exact iff_of_false Verdict.noConfusion fun ⟨_, _, notOnes⟩ => notOnes ones
      case isFalse notOnes => exact iff_of_true rfl ⟨notAfter, inTime, notOnes⟩

/-! ### CLASSIFY run on its own -/

theorem exec_classify_of_ready (hr : Ready s h) :
    exec (.classify h) s = .next ((classify s h).setRet (.verdict (classifyVerdict s.params (s.inst h)))) :=
  onInst_of hr _

/-- COUNT and OOR are written exactly with the verdict SAMPLE (R211). -/
theorem classify_inst_of_verdict (hh : h.toNat < s.nInst) :
    (classify s h).inst h =
      if classifyVerdict s.params (s.inst h) = .sample then
        { s.inst h with count := decodeCount (s.inst h).acc, oor := false }
      else s.inst h := by
  simp only [classify_inst hh, decodesNow_iff_sample]

theorem classify_buf (hh : h.toNat < s.nInst) : ((classify s h).inst h).buf = (s.inst h).buf := by
  rw [classify_inst hh]
  split
  · rfl
  · rfl

/-- CLASSIFY with its verdict and its frame, whatever CONFIGURED is. -/
theorem exec_classify_result (hr : Ready s h) :
    ∃ t, exec (.classify h) s = .next t ∧ t.ret = .verdict (classifyVerdict s.params (s.inst h)) ∧
      t.inst h =
        (if classifyVerdict s.params (s.inst h) = .sample then
          { s.inst h with count := decodeCount (s.inst h).acc, oor := false }
        else s.inst h) ∧
      SameOutside h s t ∧ SameMemory s t ∧ t.pins = s.pins ∧ t.irqMasked = s.irqMasked ∧ t.trace = s.trace := by
  have hh : h.toNat < s.nInst := hr.2
  have outside : SameOutside h s ((classify s h).setRet (.verdict (classifyVerdict s.params (s.inst h)))) :=
    (classify_outside s h).setRet _
  exact ⟨_, exec_classify_of_ready hr, rfl, classify_inst_of_verdict hh, outside,
    SameMemory.of_outside outside (classify_buf hh), classify_pins s h, classify_irqMasked s h, classify_trace s h⟩

/-- Settles O34: each clause is one branch of the chain of tests. The hypothesis that the instance is configured is not needed. -/
theorem classifyMatrix : Obligations.ClassifyMatrix := by
  unfold Obligations.ClassifyMatrix
  intro s h hr _ i late after strict
  obtain ⟨t, run, ret, inst, outside, memory, pins, mask, trace⟩ := exec_classify_result hr
  have late_iff : durationTooLong s.params i = true ↔ late := durationTooLong_iff_late s.params i
  have verdict := classifyVerdict_eq s.params i
  have sample_iff := classifyVerdict_eq_sample_iff s.params i
  rw [late_iff] at sample_iff
  refine ⟨t, _, run, ret, outside, memory, pins, mask, trace, ?_, ?_, ?_, ?_, ?_, ?_⟩
  · intro isAfter isStrict
    rw [verdict, if_pos isAfter, escalate_of_strict isStrict]
  · intro isAfter isLenient
    rw [verdict, if_pos isAfter, escalate_of_lenient isLenient]
  · intro notAfter isLate
    rw [verdict, if_neg notAfter, if_pos (late_iff.2 isLate)]
  · intro notAfter inTime isStrict ones
    rw [verdict, if_neg notAfter, if_neg (mt late_iff.1 inTime), if_pos ⟨isStrict, ones⟩]
  · intro notAfter inTime notOnes
    have isSample := sample_iff.2 ⟨notAfter, inTime, notOnes⟩
    exact ⟨isSample, inst.trans (if_pos isSample)⟩
  · intro stopped
    have noSample : classifyVerdict s.params i ≠ .sample := fun isSample => by
      obtain ⟨notAfter, inTime, notOnes⟩ := sample_iff.1 isSample
      exact stopped.elim notAfter fun rest => rest.elim inTime notOnes
    exact inst.trans (if_neg noSample)

/-! ### EMIT_ERROR run on its own (R214) -/

theorem exec_emitError_of_ok {c : ErrorCode} (hr : Ready s h) (ht : emitError s h c = .ok t) :
    exec (.emitError h c) s = .next t := by
  have guards : exec (.emitError h c) s = ofExcept (emitError s h c) := onInst_of hr _
  rw [guards, ht, ofExcept_ok]

/-- The four bytes of the sentinel's record, least significant first (R62, R103). -/
theorem encodeRec_sentinel : encodeRec sentinel = [0, 0, 0, 0x80] := by decide

/-- Settles O35: the laws of EMIT_ERROR give the reports, and the sentinel's store gives the bytes. -/
theorem emitErrorResult : Obligations.EmitErrorResult := by
  unfold Obligations.EmitErrorResult
  intro s h c ws hr hw number
  have number_eq : number = errorByte c := by
    cases c with
    | transferTooLong => rfl
    | outOfRange => rfl
    | readyAfterRead => rfl
  rw [number_eq]
  constructor
  · intro room
    obtain ⟨t, ht, a⟩ := emitError_room hr.2 room hw c
    obtain ⟨_, kept⟩ := a.bytes
    exact ⟨t, _, exec_emitError_of_ok hr ht, a.inst, a.outside, a.pins, a.irqMasked, a.trace, kept⟩
  · intro full
    obtain ⟨t, ht, a⟩ := emitError_full hr.2 full hw c
    obtain ⟨_, kept⟩ := a.bytes
    simp only [Nat.zero_add, Nat.zero_le, true_and] at kept
    have trace := a.trace
    rw [recordBytes_singleton, encodeRec_sentinel] at trace
    exact ⟨t, _, exec_emitError_of_ok hr ht, a.inst, a.outside, a.pins, a.irqMasked, trace, kept⟩

end Sys2Proof.Machine
end

section
/-! The cycle scheduler (45_cycle_scheduler.md R230 to R235): the timers' and the task's events run on their own. What an event does to
its instance is in the laws of the timers; here are the enabling conditions, the set of a pass, and the frames. -/

namespace Sys2Proof.Machine

variable {s : State} {h : Handle} {S : List Handle}

/-! ### The set of a pass (R233) -/

/-- A handle and its number name one instance, so the numbers below N_INST give every handle below it. -/
theorem mem_configuredHandles (hn : s.nInst ≤ 256) :
    h ∈ s.configuredHandles ↔ h.toNat < s.nInst ∧ (s.inst h).configured = true := by
  have number : (∃ k, k < s.nInst ∧ BitVec.ofNat 8 k = h) ↔ h.toNat < s.nInst := by
    constructor
    · rintro ⟨k, hk, rfl⟩
      rwa [BitVec.toNat_ofNat, Nat.mod_eq_of_lt (by omega)]
    · exact fun hh => ⟨h.toNat, hh, (BitVec.ofNat_toNat 8 h).trans (BitVec.setWidth_eq h)⟩
  simp only [State.configuredHandles, List.mem_filter, List.mem_map, List.mem_range, number]

/-- Two numbers below 256 are not the same handle, so no instance stands in the set twice. -/
theorem configuredHandles_nodup (hn : s.nInst ≤ 256) : s.configuredHandles.Nodup := by
  refine List.Nodup.filter _ (List.Nodup.map_on (fun j hj k hk same => ?_) List.nodup_range)
  rw [List.mem_range] at hj hk
  have numbers : (BitVec.ofNat 8 j).toNat = (BitVec.ofNat 8 k).toNat := congrArg BitVec.toNat same
  rwa [BitVec.toNat_ofNat, BitVec.toNat_ofNat, Nat.mod_eq_of_lt (by omega), Nat.mod_eq_of_lt (by omega)] at numbers

/-! ### TASK_BEGIN -/

theorem taskBeginEnabled_iff : taskBeginEnabled s = true ↔ s.halted = false ∧ s.task = .idle ∧ s.wake = true := by
  simp [taskBeginEnabled, and_assoc]

theorem taskBegin_eq (s : State) :
    taskBegin s =
      { s with
        wake := false, task := .pass s.configuredHandles, irqMasked := false
        trace := s.trace ++ [.irqMask, .irqUnmask] } := by
  have trace : (s.trace ++ [.irqMask]) ++ [.irqUnmask] = s.trace ++ [.irqMask, .irqUnmask] := List.append_assoc ..
  rw [← trace]
  rfl

theorem exec_taskBegin_of_enabled (he : taskBeginEnabled s = true) : exec .taskBegin s = .next (taskBegin s) := by
  have guards : exec .taskBegin s = whenEnabled (taskBeginEnabled s) (.next (taskBegin s)) :=
    running_of (taskBeginEnabled_iff.1 he).1 _
  rw [guards, he, whenEnabled_true]

/-- Settles O41: the set is that of the configured handles. -/
theorem taskBeginResult : Obligations.TaskBeginResult := by
  unfold Obligations.TaskBeginResult
  intro s unhalted idle woken hn
  exact ⟨_, s.configuredHandles, exec_taskBegin_of_enabled (taskBeginEnabled_iff.2 ⟨unhalted, idle, woken⟩), taskBegin_eq s,
    configuredHandles_nodup hn, fun _ => mem_configuredHandles hn⟩

/-! ### TASK_VISIT -/

theorem taskVisitEnabled_iff :
    taskVisitEnabled s h = true ↔ s.halted = false ∧ ∃ S, s.task = .pass S ∧ h ∈ S := by
  cases ht : s.task with
  | idle => simp [taskVisitEnabled, ht]
  | pass S => simp [taskVisitEnabled, ht]

theorem leavePass_of_pass (ht : s.task = .pass S) :
    leavePass s h = { s with task := .pass (S.filter fun k => k ≠ h) } := by
  rw [leavePass, ht]

theorem exec_taskVisit_of_enabled (hr : Ready s h) (he : taskVisitEnabled s h = true) :
    exec (.taskVisit h) s =
      if (s.inst h).pending then ofExcept (service (leavePass s h) h) else .next (leavePass s h) := by
  have guards : exec (.taskVisit h) s = whenEnabled (taskVisitEnabled s h) _ := onInst_of hr _
  rw [guards, he, whenEnabled_true]

theorem exec_service_of_pending (hr : Ready s h) (hp : (s.inst h).pending = true) :
    exec (.service h) s = ofExcept (service s h) := by
  have guards : exec (.service h) s = within (s.inst h).pending (ofExcept (service s h)) := onInst_of hr _
  rw [guards, hp, within_true]

/-- Settles O42: leaving the pass writes G.TASK alone, so the instance is as ready and as pending after it. -/
theorem taskVisitResult : Obligations.TaskVisitResult := by
  unfold Obligations.TaskVisitResult
  intro s h S hr ht hS
  have visit := exec_taskVisit_of_enabled hr (taskVisitEnabled_iff.2 ⟨hr.1, S, ht, hS⟩)
  rw [leavePass_of_pass ht] at visit
  constructor
  · intro pending
    rw [visit, if_pos pending]
    exact (exec_service_of_pending (s := { s with task := .pass (S.filter fun k => k ≠ h) }) hr pending).symm
  · intro skipped
    rw [visit, if_neg (Bool.eq_false_iff.1 skipped)]

/-! ### TASK_END -/

theorem taskEndEnabled_iff : taskEndEnabled s = true ↔ s.halted = false ∧ s.task = .pass [] := by
  simp [taskEndEnabled]

theorem exec_taskEnd_of_enabled (he : taskEndEnabled s = true) : exec .taskEnd s = .next { s with task := .idle } := by
  have guards : exec .taskEnd s = whenEnabled (taskEndEnabled s) (.next { s with task := .idle }) :=
    running_of (taskEndEnabled_iff.1 he).1 _
  rw [guards, he, whenEnabled_true]

/-- Settles O43. -/
theorem taskEndResult : Obligations.TaskEndResult := by
  unfold Obligations.TaskEndResult
  intro s unhalted empty
  exact exec_taskEnd_of_enabled (taskEndEnabled_iff.2 ⟨unhalted, empty⟩)

/-! ### TIMER_ARM and TIMER_CANCEL -/

theorem exec_timerArm_of_ready (hr : Ready s h) (hn : (s.inst h).rest ≠ 0) :
    exec (.timerArm h) s = .next (timerArm s h) := by
  have guards : exec (.timerArm h) s = within ((s.inst h).rest ≠ 0) (.next (timerArm s h)) := onInst_of hr _
  rw [guards, decide_eq_true hn, within_true]

theorem timerArm_memory (hh : h.toNat < s.nInst) : SameMemory s (timerArm s h) :=
  SameMemory.of_outside (timerArm_outside s h) (by rw [timerArm_inst hh])

/-- Settles O38. -/
theorem timerArmResult : Obligations.TimerArmResult := by
  unfold Obligations.TimerArmResult
  intro s h hr hn
  have hh : h.toNat < s.nInst := hr.2
  exact ⟨_, exec_timerArm_of_ready hr hn, timerArm_inst hh, timerArm_outside s h, timerArm_memory hh, timerArm_pins s h,
    timerArm_irqMasked s h, timerArm_trace s h⟩

theorem exec_timerCancel_of_ready (hr : Ready s h) : exec (.timerCancel h) s = .next (timerCancel s h) := onInst_of hr _

theorem timerCancel_memory (hh : h.toNat < s.nInst) : SameMemory s (timerCancel s h) :=
  SameMemory.of_outside (timerCancel_outside s h) (by rw [timerCancel_inst hh])

@[simp] theorem timerCancel_pins (s : State) (h : Handle) : (timerCancel s h).pins = s.pins := rfl

@[simp] theorem timerCancel_irqMasked (s : State) (h : Handle) : (timerCancel s h).irqMasked = false := rfl

/-- Settles O39. -/
theorem timerCancelResult : Obligations.TimerCancelResult := by
  unfold Obligations.TimerCancelResult
  intro s h hr
  have hh : h.toNat < s.nInst := hr.2
  exact ⟨_, exec_timerCancel_of_ready hr, timerCancel_inst hh, timerCancel_outside s h, timerCancel_memory hh,
    timerCancel_pins s h, timerCancel_irqMasked s h, timerCancel_trace s h⟩

/-! ### TIMER_FIRE -/

theorem reached_iff (now wake : Tick) : reached now wake = true ↔ (now - wake).toNat < 2 ^ 31 := decide_eq_true_iff

theorem timerFireEnabled_iff (now : Tick) :
    timerFireEnabled s h now = true ↔
      s.halted = false ∧ s.irqMasked = false ∧ (s.inst h).configured = true ∧ (s.inst h).tmrArmed = true ∧
        (now - (s.inst h).tmrWake).toNat < 2 ^ 31 := by
  simp only [timerFireEnabled, Bool.and_eq_true, Bool.not_eq_true', reached_iff, and_assoc]

theorem timerFire_inst (hh : h.toNat < s.nInst) :
    (timerFire s h).inst h = { s.inst h with tmrArmed := false, pending := true } :=
  State.modInst_inst_same hh

/-- The frame of TIMER_FIRE: beside its instance it writes G.WAKE and no more. -/
theorem timerFire_outside (s : State) (h : Handle) : SameOutside h { s with wake := true } (timerFire s h) :=
  (SameOutside.refl h { s with wake := true }).modInst _

theorem timerFire_memory (hh : h.toNat < s.nInst) : SameMemory s (timerFire s h) :=
  SameMemory.of_outside (s := { s with wake := true }) (timerFire_outside s h) (by rw [timerFire_inst hh]; rfl)

theorem exec_timerFire_of_enabled (hr : Ready s h) (he : timerFireEnabled s h s.nextTick = true) :
    exec (.timerFire h) s = .next (timerFire s.useTick h) := by
  have guards : exec (.timerFire h) s = whenEnabled (timerFireEnabled s h s.nextTick) (.next (timerFire s.useTick h)) :=
    onInst_of hr _
  rw [guards, he, whenEnabled_true]

/-- Settles O40: the tick compared is used up, and that reading changes only a counter of the environment. -/
theorem timerFireResult : Obligations.TimerFireResult := by
  unfold Obligations.TimerFireResult
  intro s h hr unmasked configured armed due
  have hh : h.toNat < s.useTick.nInst := hr.2
  have frame := timerFire_outside s.useTick h
  exact ⟨_, exec_timerFire_of_enabled hr ((timerFireEnabled_iff _).2 ⟨hr.1, unmasked, configured, armed, due⟩),
    timerFire_inst hh, frame.wake, frame.others, timerFire_memory hh, frame.task, frame.halted, frame.haltCause, frame.haltH,
    frame.params, frame.nInst, rfl, frame.port, frame.sched, unmasked, rfl⟩

end Sys2Proof.Machine
end

section
/-! The fanout (46_endstop_fanout.md R260): FANOUT_DELIVER run on its own. -/

namespace Sys2Proof.Machine

variable {s : State} {h : Handle}

/-- The whole effect of FANOUT_DELIVER, its frame included: the record of the boundary grows by the delivery (R260). -/
theorem fanoutDeliver_eq (s : State) (h : Handle) :
    fanoutDeliver s h = { s with trace := s.trace ++ delivery (s.inst h) } := by
  unfold fanoutDeliver delivery
  split
  case isTrue attached => rfl
  case isFalse detached => rw [List.append_nil]

theorem exec_fanoutDeliver_of_ready (hr : Ready s h) : exec (.fanoutDeliver h) s = .next (fanoutDeliver s h) :=
  onInst_of hr _

/-- Settles O36: the event is the delivery of the instance's frame, which holds ENDSTOP_REF, COUNT and TSTART. -/
theorem fanoutDelivers : Obligations.FanoutDelivers := by
  unfold Obligations.FanoutDelivers
  intro s h hr
  rw [exec_fanoutDeliver_of_ready hr, fanoutDeliver_eq]
  rfl

end Sys2Proof.Machine
end

section
/-! The host commands (47_host_commands.md R270 to R273). What a command writes is in the laws of the commands; here are the conditions
of its admission (R275), the selectors that CONFIGURE rejects, and its effect read against the state before the word left the port. -/

namespace Sys2Proof.Machine

variable {s : State} {h : Handle} {i : Inst} {st : Strategy} {g : BitVec 3}

/-! ### The view STATE(h) (R30) -/

theorem phase_of_rest_zero (stopped : i.rest = 0) : i.phase = .stopped := if_pos stopped

theorem phase_of_armed (started : i.rest ≠ 0) (armed : i.tmrArmed = true) : i.phase = .armed := by
  rw [Inst.phase, if_neg started, if_pos armed]

/-! ### Admission (R275) -/

theorem admission_refused (hr : Ready s h) {bar : Option Refusal} {r : Refusal} (hb : bar = some r) (run : State → Result) :
    admission s h bar run = .refused r := by
  rw [hb]
  exact onInst_of hr _

theorem barConfigured_of_unconfigured (hc : i.configured = false) : barConfigured i = none :=
  if_neg (Bool.eq_false_iff.1 hc)

theorem barUnconfigured_of_configured (hc : i.configured = true) : barUnconfigured i = none := if_pos hc

theorem variantB_iff : i.variantB = true ↔ i.strat = .register ∧ i.policy = .escalateOnDesync := by
  rw [Inst.variantB, Bool.and_eq_true, decide_eq_true_iff, decide_eq_true_iff]

/-- Once the instance is configured, the variant alone decides on ATTACH_CONSUMER (R271). -/
theorem barAttach_of_configured (hc : i.configured = true) :
    barAttach i = if i.strat = .register ∧ i.policy = .escalateOnDesync then none else some .notVariantB := by
  rw [barAttach, if_pos hc]
  exact if_congr variantB_iff rfl rfl

/-! ### START_STOP (R272) -/

theorem exec_startStop (s : State) (h : Handle) (n : Tick) :
    exec (.startStop h n) s = admission s h (barUnconfigured (s.inst h)) fun t => .next (startStop t h n) := rfl

theorem exec_startStop_of_admitted (ha : Admitted s h) (hc : (s.inst h).configured = true) (n : Tick) :
    exec (.startStop h n) s = .next (startStop s.takeCommand h n) := by
  rw [exec_startStop, admission_of ha (barUnconfigured_of_configured hc)]

theorem startStop_inst_zero (hh : h.toNat < s.nInst) :
    (startStop s h 0).inst h =
      { s.inst h with tmrArmed := false, pending := false, used := 0, err := 0, rest := 0 } := by
  rw [startStop_zero, stopInst_inst hh]

theorem startStop_trace_zero (s : State) (h : Handle) :
    (startStop s h 0).trace = s.trace ++ [.irqMask, .irqUnmask, .irqMask, .irqUnmask] := by
  rw [startStop_zero, stopInst_trace]

/-- The windows of the stop come first, then the one in which the timer is armed. -/
theorem startStop_trace_of_ne (s : State) (h : Handle) {n : Tick} (hn : n ≠ 0) :
    (startStop s h n).trace =
      s.trace ++ [.irqMask, .irqUnmask, .irqMask, .irqUnmask, .irqMask, .now s.nextTick, .irqUnmask] := by
  rw [startStop_of_ne hn, timerArm_trace, stopInst_trace, stopInst_nextTick, List.append_assoc]
  rfl

/-- The bytes of the buffer stay, whether the instance is stopped or started. -/
theorem startStop_buf (hh : h.toNat < s.nInst) (n : Tick) : ((startStop s h n).inst h).buf = (s.inst h).buf := by
  by_cases hn : n = 0
  · rw [hn, startStop_inst_zero hh]
  · rw [startStop_inst_of_ne hh hn]

/-- Settles O15: the stop from any state of the instance, and the timer armed after it for n > 0. -/
theorem startStopResult : Obligations.StartStopResult := by
  unfold Obligations.StartStopResult
  intro s h n ha hc
  have hh : h.toNat < s.takeCommand.nInst := ha.inRange
  have frame := startStop_outside s.takeCommand h n
  refine ⟨_, exec_startStop_of_admitted ha hc n, frame, SameMemory.of_takeCommand frame (startStop_buf hh n),
    startStop_pins s.takeCommand h n, startStop_irqMasked s.takeCommand h n, ?_, ?_⟩
  · rintro rfl
    have inst := startStop_inst_zero hh
    exact ⟨inst, phase_of_rest_zero (congrArg Inst.rest inst), startStop_trace_zero s.takeCommand h⟩
  · intro hn
    have inst := startStop_inst_of_ne hh hn
    have started : ((startStop s.takeCommand h n).inst h).rest ≠ 0 := by rwa [inst]
    exact ⟨inst, phase_of_armed started (congrArg Inst.tmrArmed inst), startStop_trace_of_ne s.takeCommand h hn⟩

/-! ### CONFIGURE (R270) -/

theorem storedSelector_eq (st : Strategy) (g : BitVec 3) : storedSelector st g = if st = .register then 0 else g := by
  cases st with
  | register => rfl
  | bitbang => rfl

/-- The selectors that halt the block: those of a BITBANG instance outside 1 to 4. -/
theorem selectorIllegal_iff : selectorIllegal st g = true ↔ st = .bitbang ∧ (g.toNat = 0 ∨ 5 ≤ g.toNat) := by
  have outside : selectorLegal g = false ↔ g.toNat = 0 ∨ 5 ≤ g.toNat := by
    rw [← Bool.not_eq_true, selectorLegal, Bool.and_eq_true, decide_eq_true_iff, decide_eq_true_iff]
    omega
  rw [selectorIllegal, Bool.and_eq_true, decide_eq_true_iff, Bool.not_eq_true', outside]

theorem selectorIllegal_of_legal (legal : st = .register ∨ (1 ≤ g.toNat ∧ g.toNat ≤ 4)) :
    ¬selectorIllegal st g = true := by
  intro illegal
  obtain ⟨rfl, outside⟩ := selectorIllegal_iff.1 illegal
  rcases legal with register | inside
  · exact Strategy.noConfusion register
  · omega

theorem exec_configure (s : State) (h : Handle) (st : Strategy) (po : Policy) (g : BitVec 3) (a b : PinId) :
    exec (.configure h st po g a b) s =
      admission s h (barConfigured (s.inst h)) fun t =>
        if selectorIllegal st g then .next (t.raiseFatal h .configSelector)
        else .next (configureWrites t h st po g a b) := rfl

theorem exec_configure_of_admitted (ha : Admitted s h) (hc : (s.inst h).configured = false) (po : Policy) (a b : PinId) :
    exec (.configure h st po g a b) s =
      if selectorIllegal st g then .next (s.takeCommand.raiseFatal h .configSelector)
      else .next (configureWrites s.takeCommand h st po g a b) := by
  rw [exec_configure, admission_of ha (barConfigured_of_unconfigured hc)]

/-- Settles O13: CONFIGURE's writes where the selector is legal, the halt before any of them where it is not. -/
theorem configureResult : Obligations.ConfigureResult := by
  unfold Obligations.ConfigureResult
  intro s h st po g a b ha hc
  have run := exec_configure_of_admitted (st := st) (g := g) ha hc po a b
  constructor
  · intro legal
    rw [if_neg (selectorIllegal_of_legal legal)] at run
    have inst := configureWrites_inst ha.inRange st po g a b
    have frame := configureWrites_outside s.takeCommand h st po g a b
    have buf : ((configureWrites s.takeCommand h st po g a b).inst h).buf = (s.inst h).buf := by rw [inst]; rfl
    refine ⟨_, run, ?_, phase_of_rest_zero (congrArg Inst.rest inst), frame,
      SameMemory.of_takeCommand frame buf, configureWrites_irqMasked s.takeCommand h st po g a b, ?_, ?_⟩
    · rw [inst, configuredInst, storedSelector_eq]
      rfl
    · rintro rfl
      exact ⟨rfl, rfl⟩
    · rintro rfl
      exact ⟨rfl, fun q => State.pinLevel_pinWrite _ b q false⟩
  · intro bitbang outside
    rw [run, if_pos (selectorIllegal_iff.2 ⟨bitbang, outside⟩)]
    rfl

/-! ### ATTACH_CONSUMER (R271) -/

/-- What ATTACH_CONSUMER writes: the consumer, and that it is valid. -/
def withConsumer (c : Handle) (i : Inst) : Inst := { i with endstopRef := c, endstopValid := true }

theorem exec_attachConsumer (s : State) (h c : Handle) :
    exec (.attachConsumer h c) s =
      admission s h (barAttach (s.inst h)) fun t => .next (t.modInst h (withConsumer c)) := rfl

/-- Settles O14: the bar of the admission is the variant, and the write is that of the consumer. -/
theorem attachBindsConsumer : Obligations.AttachBindsConsumer := by
  unfold Obligations.AttachBindsConsumer
  intro s h c ha hc
  have bar := barAttach_of_configured hc
  rw [exec_attachConsumer]
  constructor
  · intro variantB
    rw [if_pos variantB] at bar
    have inst : (s.takeCommand.modInst h (withConsumer c)).inst h = withConsumer c (s.inst h) :=
      State.modInst_inst_same ha.inRange
    have buf : ((s.takeCommand.modInst h (withConsumer c)).inst h).buf = (s.inst h).buf := by rw [inst]; rfl
    have frame := (SameOutside.refl h s.takeCommand).modInst (withConsumer c)
    exact ⟨_, admission_of ha bar _, inst, frame, SameMemory.of_takeCommand frame buf, rfl, rfl, rfl⟩
  · intro otherVariant
    rw [if_neg otherVariant] at bar
    exact admission_refused ha.1 bar _

/-! ### STATUS_QUERY (R273) -/

theorem exec_statusQuery (s : State) (h : Handle) :
    exec (.statusQuery h) s = admission s h (barUnconfigured (s.inst h)) fun t => .next (statusQuery t h) := rfl

theorem exec_statusQuery_of_admitted (ha : Admitted s h) (hc : (s.inst h).configured = true) :
    exec (.statusQuery h) s = .next (statusQuery s.takeCommand h) := by
  rw [exec_statusQuery, admission_of ha (barUnconfigured_of_configured hc)]

/-- Settles O16: the taken word changes nothing that the query reads. -/
theorem statusQueryAnswers : Obligations.StatusQueryAnswers := by
  unfold Obligations.StatusQueryAnswers
  intro s h ha hc
  have inst := statusQuery_inst s.takeCommand h h
  have frame := statusQuery_outside s.takeCommand h
  exact ⟨_, exec_statusQuery_of_admitted ha hc, inst, frame, SameMemory.of_takeCommand frame (congrArg Inst.buf inst),
    statusQuery_pins s.takeCommand h, statusQuery_irqMasked s.takeCommand h, statusQuery_trace s.takeCommand h⟩

end Sys2Proof.Machine
end

section
/-! The command words (30_encoding.md R90 to R97): each row of the table as the sum of its fields, decoding and encoding as each
other's inverse, and the rows as masks. -/

namespace Sys2Proof

variable {w : Cmd64} {h : Handle}

/-! ### The one-bit codes (R92) -/

theorem Strategy.ofBit_toBit (st : Strategy) : Strategy.ofBit st.toBit = st := by
  cases st with
  | register => rfl
  | bitbang => rfl

theorem Policy.ofBit_toBit (po : Policy) : Policy.ofBit po.toBit = po := by
  cases po with
  | alwaysRecoverable => rfl
  | escalateOnDesync => rfl

theorem bit_eq_zero_or_one (b : BitVec 1) : b = 0 ∨ b = 1 := by
  have hlt : b.toNat < 2 := b.isLt
  rcases (show b.toNat = 0 ∨ b.toNat = 1 by omega) with zero | one
  · exact .inl (BitVec.eq_of_toNat_eq zero)
  · exact .inr (BitVec.eq_of_toNat_eq one)

theorem Strategy.toBit_ofBit (b : BitVec 1) : (Strategy.ofBit b).toBit = b := by
  rcases bit_eq_zero_or_one b with rfl | rfl
  · rfl
  · rfl

theorem Policy.toBit_ofBit (b : BitVec 1) : (Policy.ofBit b).toBit = b := by
  rcases bit_eq_zero_or_one b with rfl | rfl
  · rfl
  · rfl

theorem Strategy.ofBit_eq_ite (b : BitVec 1) : Strategy.ofBit b = if b = 1 then .bitbang else .register := by
  rcases bit_eq_zero_or_one b with rfl | rfl
  · rfl
  · rfl

theorem Policy.ofBit_eq_ite (b : BitVec 1) :
    Policy.ofBit b = if b = 1 then .escalateOnDesync else .alwaysRecoverable := by
  rcases bit_eq_zero_or_one b with rfl | rfl
  · rfl
  · rfl

/-! ### A word that is the sum of its fields decodes to its command (R92 to R95) -/

theorem bits_eq {lo n : Nat} {x : BitVec n} (field : w.toNat / 2 ^ lo % 2 ^ n = x.toNat) : bits w lo n = x :=
  BitVec.eq_of_toNat_eq ((Laws.bits_toNat w lo n).trans field)

theorem decode_configure_of_toNat {st po : BitVec 1} {g : BitVec 3} {a b : PinId}
    (hw : w.toNat = 1 * 2 ^ 56 + h.toNat * 2 ^ 48 + st.toNat * 2 ^ 47 + po.toNat * 2 ^ 46 + g.toNat * 2 ^ 43 +
      a.toNat * 2 ^ 32 + b.toNat * 2 ^ 24) :
    decode w = .ok (.configure h (.ofBit st) (.ofBit po) g a b) := by
  have hh := h.isLt
  have hst := st.isLt
  have hpo := po.isLt
  have hg := g.isLt
  have ha := a.isLt
  have hb := b.isLt
  have opc : bits w 56 8 = 1 := bits_eq (x := 1#8) (by rw [hw, BitVec.toNat_ofNat]; omega)
  have zeros : bits w 40 3 = 0 ∧ bits w 0 24 = 0 :=
    ⟨bits_eq (x := 0#3) (by rw [hw, BitVec.toNat_ofNat]; omega),
      bits_eq (x := 0#24) (by rw [hw, BitVec.toNat_ofNat]; omega)⟩
  rw [decode, if_pos opc, decodeConfigure, if_pos zeros, bits_eq (x := h) (by omega), bits_eq (x := st) (by omega),
    bits_eq (x := po) (by omega), bits_eq (x := g) (by omega), bits_eq (x := a) (by omega), bits_eq (x := b) (by omega)]

theorem decode_attach_of_toNat {c : Handle} (hw : w.toNat = 2 * 2 ^ 56 + h.toNat * 2 ^ 48 + c.toNat * 2 ^ 40) :
    decode w = .ok (.attachConsumer h c) := by
  have hh := h.isLt
  have hc := c.isLt
  have opc : bits w 56 8 = 2 := bits_eq (x := 2#8) (by rw [hw, BitVec.toNat_ofNat]; omega)
  have zeros : bits w 0 40 = 0 := bits_eq (x := 0#40) (by rw [hw, BitVec.toNat_ofNat]; omega)
  rw [decode, opc, if_neg (by decide), if_pos rfl, decodeAttach, if_pos zeros, bits_eq (x := h) (by omega),
    bits_eq (x := c) (by omega)]

theorem decode_startStop_of_toNat {r : Tick} (hw : w.toNat = 3 * 2 ^ 56 + h.toNat * 2 ^ 48 + r.toNat * 2 ^ 16) :
    decode w = .ok (.startStop h r) := by
  have hh := h.isLt
  have hr := r.isLt
  have opc : bits w 56 8 = 3 := bits_eq (x := 3#8) (by rw [hw, BitVec.toNat_ofNat]; omega)
  have zeros : bits w 0 16 = 0 := bits_eq (x := 0#16) (by rw [hw, BitVec.toNat_ofNat]; omega)
  rw [decode, opc, if_neg (by decide), if_neg (by decide), if_pos rfl, decodeStartStop, if_pos zeros,
    bits_eq (x := h) (by omega), bits_eq (x := r) (by omega)]

theorem decode_status_of_toNat (hw : w.toNat = 4 * 2 ^ 56 + h.toNat * 2 ^ 48) : decode w = .ok (.statusQuery h) := by
  have hh := h.isLt
  have opc : bits w 56 8 = 4 := bits_eq (x := 4#8) (by rw [hw, BitVec.toNat_ofNat]; omega)
  have zeros : bits w 0 48 = 0 := bits_eq (x := 0#48) (by rw [hw, BitVec.toNat_ofNat]; omega)
  rw [decode, opc, if_neg (by decide), if_neg (by decide), if_neg (by decide), if_pos rfl, decodeStatus, if_pos zeros,
    bits_eq (x := h) (by omega)]

/-- Settles O1: the word written for a command is the sum of its fields. -/
theorem decodeOfEncode : Obligations.DecodeOfEncode := by
  unfold Obligations.DecodeOfEncode
  intro i w hw
  cases i
  case configure h st po g a b =>
    obtain rfl := Option.some.inj hw
    rw [decode_configure_of_toNat (h := h) (st := st.toBit) (po := po.toBit) (g := g) (a := a) (b := b),
      Strategy.ofBit_toBit, Policy.ofBit_toBit]
    simp only [Laws.append_toNat, BitVec.toNat_ofNat]
    omega
  case attachConsumer h c =>
    obtain rfl := Option.some.inj hw
    apply decode_attach_of_toNat
    simp only [Laws.append_toNat, BitVec.toNat_ofNat]
    omega
  case startStop h r =>
    obtain rfl := Option.some.inj hw
    apply decode_startStop_of_toNat
    simp only [Laws.append_toNat, BitVec.toNat_ofNat]
    omega
  case statusQuery h =>
    obtain rfl := Option.some.inj hw
    apply decode_status_of_toNat
    simp only [Laws.append_toNat, BitVec.toNat_ofNat]
    omega
  all_goals cases hw

/-! ### A word that decodes has the fields of its row, and its must-be-zero bits are 0 (R97) -/

/-- What the decoder asks of a word, row by row, and what it reads from it. -/
theorem decode_eq_ok_iff {i : Instr} :
    decode w = .ok i ↔
      (bits w 56 8 = 1 ∧ (bits w 40 3 = 0 ∧ bits w 0 24 = 0) ∧
        i = .configure (bits w 48 8) (.ofBit (bits w 47 1)) (.ofBit (bits w 46 1)) (bits w 43 3) (bits w 32 8)
          (bits w 24 8)) ∨
      (bits w 56 8 = 2 ∧ bits w 0 40 = 0 ∧ i = .attachConsumer (bits w 48 8) (bits w 40 8)) ∨
      (bits w 56 8 = 3 ∧ bits w 0 16 = 0 ∧ i = .startStop (bits w 48 8) (bits w 16 32)) ∨
      (bits w 56 8 = 4 ∧ bits w 0 48 = 0 ∧ i = .statusQuery (bits w 48 8)) := by
  have row : ∀ (p : Prop) [Decidable p] (j : Instr) (e : DecodeError),
      ((if p then Except.ok j else Except.error e) = Except.ok i) ↔ p ∧ i = j := by
    intro p _ j e
    by_cases hp : p
    · rw [if_pos hp]
      exact ⟨fun same => ⟨hp, (Except.ok.inj same).symm⟩, fun ⟨_, same⟩ => congrArg _ same.symm⟩
    · rw [if_neg hp]
      exact ⟨fun same => (by cases same), fun ⟨yes, _⟩ => absurd yes hp⟩
  unfold decode decodeConfigure decodeAttach decodeStartStop decodeStatus
  by_cases h1 : bits w 56 8 = 1
  · rw [if_pos h1, row, h1]
    simp
  by_cases h2 : bits w 56 8 = 2
  · rw [if_neg h1, if_pos h2, row, h2]
    simp
  by_cases h3 : bits w 56 8 = 3
  · rw [if_neg h1, if_neg h2, if_pos h3, row, h3]
    simp
  by_cases h4 : bits w 56 8 = 4
  · rw [if_neg h1, if_neg h2, if_neg h3, if_pos h4, row, h4]
    simp
  · rw [if_neg h1, if_neg h2, if_neg h3, if_neg h4]
    refine iff_of_false (fun same => by cases same) ?_
    rintro (⟨opc, _⟩ | ⟨opc, _⟩ | ⟨opc, _⟩ | ⟨opc, _⟩)
    · exact h1 opc
    · exact h2 opc
    · exact h3 opc
    · exact h4 opc

/-- Neighbouring fields of a word are one field. -/
theorem bits_append {lo hi m n : Nat} (next : hi = lo + n) : bits w hi m ++ bits w lo n = bits w lo (m + n) :=
  BitVec.extractLsb'_append_extractLsb'_eq_extractLsb' next

theorem bits_all (w : Cmd64) : bits w 0 64 = w := BitVec.extractLsb'_eq_self

/-- Settles O2: the fields that the decoder reads or checks cover the word, so their concatenation is the word. -/
theorem encodeOfDecode : Obligations.EncodeOfDecode := by
  unfold Obligations.EncodeOfDecode
  intro w i hd
  rcases decode_eq_ok_iff.1 hd with ⟨opc, ⟨zeros, low⟩, rfl⟩ | ⟨opc, low, rfl⟩ | ⟨opc, low, rfl⟩ | ⟨opc, low, rfl⟩
  · have word : bits w 56 8 ++ bits w 48 8 ++ bits w 47 1 ++ bits w 46 1 ++ bits w 43 3 ++ bits w 40 3 ++ bits w 32 8 ++
        bits w 24 8 ++ bits w 0 24 = w := by
      simp only [bits_append]
      exact bits_all w
    rw [opc, zeros, low] at word
    rw [encode, Strategy.toBit_ofBit, Policy.toBit_ofBit]
    exact congrArg some word
  · have word : bits w 56 8 ++ bits w 48 8 ++ bits w 40 8 ++ bits w 0 40 = w := by
      simp only [bits_append]
      exact bits_all w
    rw [opc, low] at word
    exact congrArg some word
  · have word : bits w 56 8 ++ bits w 48 8 ++ bits w 16 32 ++ bits w 0 16 = w := by
      simp only [bits_append]
      exact bits_all w
    rw [opc, low] at word
    exact congrArg some word
  · have word : bits w 56 8 ++ bits w 48 8 ++ bits w 0 48 = w := by
      simp only [bits_append]
      exact bits_all w
    rw [opc, low] at word
    exact congrArg some word

/-! ### The rows as masks (R92 to R95) -/

theorem append_eq_append_iff {m n : Nat} {x x' : BitVec m} {y y' : BitVec n} : x ++ y = x' ++ y' ↔ x = x' ∧ y = y' := by
  constructor
  · intro same
    have left := congrArg (BitVec.extractLsb' n m) same
    have right := congrArg (BitVec.extractLsb' 0 n) same
    rw [BitVec.extractLsb'_append_eq_left, BitVec.extractLsb'_append_eq_left] at left
    rw [BitVec.extractLsb'_append_eq_right, BitVec.extractLsb'_append_eq_right] at right
    exact ⟨left, right⟩
  · rintro ⟨rfl, rfl⟩
    rfl

/-- A mask that drops the middle one of three fields and keeps the last. -/
theorem masked_eq_iff {k m n : Nat} (x p c : BitVec k) (y : BitVec m) (z d : BitVec n) :
    (x ++ y ++ z) &&& (p ++ 0#m ++ BitVec.allOnes n) = c ++ 0#m ++ d ↔ x &&& p = c ∧ z = d := by
  simp only [BitVec.and_append, BitVec.and_allOnes, BitVec.and_zero, append_eq_append_iff, and_true]

theorem opcode_and_ones (w : Cmd64) : bits w 56 8 &&& 0xFF#8 = bits w 56 8 := BitVec.and_allOnes

theorem configure_row_iff (w : Cmd64) :
    w &&& 0xFF00070000FFFFFF = 0x0100000000000000 ↔ bits w 56 8 = 1 ∧ bits w 40 3 = 0 ∧ bits w 0 24 = 0 := by
  have word : bits w 56 8 ++ bits w 43 13 ++ bits w 40 3 ++ bits w 24 16 ++ bits w 0 24 = w := by
    simp only [bits_append]
    exact bits_all w
  have row := masked_eq_iff (bits w 56 8 ++ bits w 43 13 ++ bits w 40 3) (0xFF#8 ++ 0#13 ++ BitVec.allOnes 3)
    (1#8 ++ 0#13 ++ 0#3) (bits w 24 16) (bits w 0 24) 0#24
  rwa [word, masked_eq_iff, opcode_and_ones, and_assoc] at row

theorem attach_row_iff (w : Cmd64) :
    w &&& 0xFF0000FFFFFFFFFF = 0x0200000000000000 ↔ bits w 56 8 = 2 ∧ bits w 0 40 = 0 := by
  have word : bits w 56 8 ++ bits w 40 16 ++ bits w 0 40 = w := by
    simp only [bits_append]
    exact bits_all w
  have row := masked_eq_iff (bits w 56 8) 0xFF#8 2#8 (bits w 40 16) (bits w 0 40) 0#40
  rwa [word, opcode_and_ones] at row

theorem startStop_row_iff (w : Cmd64) :
    w &&& 0xFF0000000000FFFF = 0x0300000000000000 ↔ bits w 56 8 = 3 ∧ bits w 0 16 = 0 := by
  have word : bits w 56 8 ++ bits w 16 40 ++ bits w 0 16 = w := by
    simp only [bits_append]
    exact bits_all w
  have row := masked_eq_iff (bits w 56 8) 0xFF#8 3#8 (bits w 16 40) (bits w 0 16) 0#16
  rwa [word, opcode_and_ones] at row

theorem status_row_iff (w : Cmd64) :
    w &&& 0xFF00FFFFFFFFFFFF = 0x0400000000000000 ↔ bits w 56 8 = 4 ∧ bits w 0 48 = 0 := by
  have word : bits w 56 8 ++ bits w 48 8 ++ bits w 0 48 = w := by
    simp only [bits_append]
    exact bits_all w
  have row := masked_eq_iff (bits w 56 8) 0xFF#8 4#8 (bits w 48 8) (bits w 0 48) 0#48
  rwa [word, opcode_and_ones] at row

/-- Settles O3: a row's mask keeps the operation code and the must-be-zero bits, which are what the decoder checks. -/
theorem decodeAcceptsTableRows : Obligations.DecodeAcceptsTableRows := by
  unfold Obligations.DecodeAcceptsTableRows
  intro w
  rw [configure_row_iff, attach_row_iff, startStop_row_iff, status_row_iff]
  constructor
  · rintro ⟨i, hd⟩
    rcases decode_eq_ok_iff.1 hd with ⟨opc, zeros, _⟩ | ⟨opc, low, _⟩ | ⟨opc, low, _⟩ | ⟨opc, low, _⟩
    · exact .inl ⟨opc, zeros⟩
    · exact .inr (.inl ⟨opc, low⟩)
    · exact .inr (.inr (.inl ⟨opc, low⟩))
    · exact .inr (.inr (.inr ⟨opc, low⟩))
  · rintro (⟨opc, zeros⟩ | ⟨opc, low⟩ | ⟨opc, low⟩ | ⟨opc, low⟩)
    · exact ⟨_, decode_eq_ok_iff.2 (.inl ⟨opc, zeros, rfl⟩)⟩
    · exact ⟨_, decode_eq_ok_iff.2 (.inr (.inl ⟨opc, low, rfl⟩))⟩
    · exact ⟨_, decode_eq_ok_iff.2 (.inr (.inr (.inl ⟨opc, low, rfl⟩)))⟩
    · exact ⟨_, decode_eq_ok_iff.2 (.inr (.inr (.inr ⟨opc, low, rfl⟩)))⟩

/-! ### The fields at their places, and the examples -/

/-- Settles O4: each word is the sum of its fields, which together stay below 2^64. -/
theorem commandFieldPlaces : Obligations.CommandFieldPlaces := by
  unfold Obligations.CommandFieldPlaces
  refine ⟨fun h st po g a b => ?_, fun h c => ?_, fun h r => ?_, fun h => ?_⟩
  · have hh := h.isLt
    have hst := st.isLt
    have hpo := po.isLt
    have hg := g.isLt
    have ha := a.isLt
    have hb := b.isLt
    rw [← Strategy.ofBit_eq_ite, ← Policy.ofBit_eq_ite]
    apply decode_configure_of_toNat
    rw [BitVec.toNat_ofNat, Nat.mod_eq_of_lt (by omega)]
  · have hh := h.isLt
    have hc := c.isLt
    apply decode_attach_of_toNat
    rw [BitVec.toNat_ofNat, Nat.mod_eq_of_lt (by omega)]
  · have hh := h.isLt
    have hr := r.isLt
    apply decode_startStop_of_toNat
    rw [BitVec.toNat_ofNat, Nat.mod_eq_of_lt (by omega)]
  · have hh := h.isLt
    apply decode_status_of_toNat
    rw [BitVec.toNat_ofNat, Nat.mod_eq_of_lt (by omega)]

/-- Settles O5: each word is the one that the encoder writes for its command. -/
theorem decodeSpecWords : Obligations.DecodeSpecWords := by
  unfold Obligations.DecodeSpecWords
  exact ⟨decodeOfEncode _ _ rfl, decodeOfEncode _ _ rfl, decodeOfEncode _ _ rfl, decodeOfEncode _ _ rfl,
    decodeOfEncode _ _ rfl⟩

end Sys2Proof
end

section
/-! The step (00_scope.md R13, 20_memory.md R70, R71): which turn the next agent takes, and what a step makes of each turn. -/

namespace Sys2Proof.Machine

variable {s t : State} {h : Handle} {i : Instr} {a : Agent} {rest : List Agent} {w : Cmd64} {ws : List Cmd64}

/-! ### The turn that is taken -/

theorem nextTurn_of_sched (hs : s.sched = a :: rest) : nextTurn s = turnOf { s with sched := rest } a := by
  have agent : s.nextAgent = a := by rw [State.nextAgent, hs, List.headD_cons]
  have used : s.useAgent = { s with sched := rest } := by rw [State.useAgent, hs]
  rw [nextTurn, agent, used]

theorem present_of_port (hp : s.port = w :: ws) : s.present = s := by rw [State.present, hp]

theorem hostTurn_of_ok (hp : s.port = w :: ws) (hd : decode w = .ok i) : hostTurn s = .run i := by
  simp only [hostTurn, present_of_port hp, hp, hd]

theorem hostTurn_of_error {e : DecodeError} (hp : s.port = w :: ws) (hd : decode w = .error e) :
    hostTurn s = .reserved e := by
  simp only [hostTurn, present_of_port hp, hp, hd]

/-! ### What a step makes of a turn -/

theorem haltedStop_of (hs : s.halted = false) (k : Result) : haltedStop s k = k := if_neg (Bool.eq_false_iff.1 hs)

theorem haltedStop_of_halted (hs : s.halted = true) (k : Result) : haltedStop s k = .fault .halted := if_pos hs

theorem step_of_run (ht : nextTurn s = (.run i, t)) (hs : t.halted = false) : step s = exec i t := by
  rw [step, ht]
  exact haltedStop_of hs _

theorem step_of_wait (ht : nextTurn s = (.wait, t)) (hs : t.halted = false) : step s = .next t := by
  rw [step, ht]
  exact haltedStop_of hs _

theorem step_of_reserved {e : DecodeError} (ht : nextTurn s = (.reserved e, t)) (hs : t.halted = false) :
    step s = .refused (.reservedCommand e) := by
  rw [step, ht]
  exact haltedStop_of hs _

/-- Settles O6: the host's turn runs the decoded command. -/
theorem stepRunsPresentedCommand : Obligations.StepRunsPresentedCommand := by
  unfold Obligations.StepRunsPresentedCommand
  intro s w ws rest i hs agent hp hd
  have hp' : ({ s with sched := rest } : State).port = w :: ws := hp
  have turn : nextTurn s = (.run i, { s with sched := rest }) := by
    rw [nextTurn_of_sched agent, turnOf, hostTurn_of_ok hp' hd, present_of_port hp']
  exact step_of_run turn hs

/-- Settles O9. -/
theorem reservedWordRefused : Obligations.ReservedWordRefused := by
  unfold Obligations.ReservedWordRefused
  intro s w ws rest e hs agent hp hd
  have hp' : ({ s with sched := rest } : State).port = w :: ws := hp
  have turn : nextTurn s = (.reserved e, { s with sched := rest }) := by
    rw [nextTurn_of_sched agent, turnOf, hostTurn_of_error hp' hd, present_of_port hp']
  exact step_of_reserved turn hs

theorem tableWord_64 (n : Nat) : tableWord 64 n = BitVec.ofNat 64 n :=
  BitVec.eq_of_toNat_eq (by rw [tableWord, BitVec.toNat_ofNat, BitVec.toNat_ofNat, Nat.mod_mod])

/-- Settles O8: the state of withFetchWord is one in which the host's turn is next and the word stands at the head of the port. -/
theorem fetchWordRunsNext : Obligations.FetchWordRunsNext := by
  unfold Obligations.FetchWordRunsNext
  intro s w i hs hd
  rw [State.withFetchWord, tableWord_64]
  exact stepRunsPresentedCommand (presentWord s (BitVec.ofNat 64 w)) _ s.port s.sched i hs rfl rfl hd

/-- An event's turn (R232 to R235): it runs where it is enabled, and passes where not. -/
theorem step_of_event {e : Bool} {u : State} (ht : nextTurn s = if e then (.run i, t) else (.wait, u))
    (hs : t.halted = false) (hu : u.halted = false) : step s = if e then exec i t else .next u := by
  cases e with
  | true => exact step_of_run ht hs
  | false => exact step_of_wait ht hu

theorem step_of_timer (hs : s.halted = false) (hq : s.sched = .timer h :: rest) :
    step s = if timerFireEnabled s h s.nextTick then exec (.timerFire h) { s with sched := rest }
      else .next { s with sched := rest, env := { s.env with tickPos := s.env.tickPos + 1 } } :=
  step_of_event (nextTurn_of_sched hq) hs hs

theorem step_of_taskBegin (hs : s.halted = false) (hq : s.sched = .taskBegin :: rest) :
    step s = if taskBeginEnabled s then exec .taskBegin { s with sched := rest } else .next { s with sched := rest } := by
  refine step_of_event ?_ hs hs
  rw [nextTurn_of_sched hq, turnOf, ← apply_ite (fun x => (x, _))]
  rfl

theorem step_of_taskVisit (hs : s.halted = false) (hq : s.sched = .taskVisit h :: rest) :
    step s =
      if taskVisitEnabled s h then exec (.taskVisit h) { s with sched := rest } else .next { s with sched := rest } := by
  refine step_of_event ?_ hs hs
  rw [nextTurn_of_sched hq, turnOf, ← apply_ite (fun x => (x, _))]
  rfl

theorem step_of_taskEnd (hs : s.halted = false) (hq : s.sched = .taskEnd :: rest) :
    step s = if taskEndEnabled s then exec .taskEnd { s with sched := rest } else .next { s with sched := rest } := by
  refine step_of_event ?_ hs hs
  rw [nextTurn_of_sched hq, turnOf, ← apply_ite (fun x => (x, _))]
  rfl

/-- Settles O7: the enabling conditions of a running block, written out. -/
theorem stepRunsEnabledEvent : Obligations.StepRunsEnabledEvent := by
  unfold Obligations.StepRunsEnabledEvent
  intro s rest hs
  refine ⟨fun h hq => ?_, fun hq => ?_, fun h hq => ⟨fun S ht hS => ?_, fun out => ?_⟩, fun hq => ?_⟩
  · rw [step_of_timer hs hq]
    exact if_congr ((timerFireEnabled_iff _).trans (and_iff_right hs)) rfl rfl
  · rw [step_of_taskBegin hs hq]
    exact if_congr (taskBeginEnabled_iff.trans (and_iff_right hs)) rfl rfl
  · rw [step_of_taskVisit hs hq, if_pos (taskVisitEnabled_iff.2 ⟨hs, S, ht, hS⟩)]
  · rw [step_of_taskVisit hs hq, if_neg]
    intro enabled
    obtain ⟨_, S, ht, hS⟩ := taskVisitEnabled_iff.1 enabled
    exact out S ht hS
  · rw [step_of_taskEnd hs hq]
    exact if_congr (taskEndEnabled_iff.trans (and_iff_right hs)) rfl rfl

end Sys2Proof.Machine
end

section
/-! Reset and the halt (10_state.md R40, 60_exceptions.md R310, R311): the state after power-on, and what a halted block answers. -/

namespace Sys2Proof.Machine

variable {s t : State} {h : Handle} {a : Agent}

/-! ### Power-on reset -/

theorem powerOn_inst (n : Nat) (p : Params) (h : Handle) : (State.powerOn n p).inst h = Inst.reset := by
  simp only [State.inst, State.powerOn, List.getD_eq_getElem?_getD, List.getElem?_replicate]
  split
  · rfl
  · rfl

theorem powerOn_nInst (n : Nat) (p : Params) : (State.powerOn n p).nInst = n := List.length_replicate

theorem reset_atPowerOn : Inst.reset.AtPowerOn := ⟨rfl, rfl, rfl, rfl, rfl, rfl, rfl⟩

/-- Settles O12. -/
theorem powerOnValues : Obligations.PowerOnValues := by
  unfold Obligations.PowerOnValues
  intro n p
  refine ⟨rfl, rfl, rfl, rfl, rfl, rfl, fun _ => rfl, rfl, powerOn_nInst n p, fun h => ?_⟩
  rw [powerOn_inst]
  exact reset_atPowerOn

theorem powerOnReset_inst (s : State) (h : Handle) : s.powerOnReset.inst h = Inst.reset := powerOn_inst s.nInst s.params h

theorem powerOnReset_nInst (s : State) : s.powerOnReset.nInst = s.nInst := powerOn_nInst s.nInst s.params

theorem step_of_powerOn (ha : s.nextAgent = .powerOn) : step s = .next s.useAgent.powerOnReset := by
  rw [step, nextTurn, ha]
  rfl

/-! ### The halt -/

theorem turnOf_ne_powerOn (ha : a ≠ .powerOn) : (turnOf s a).1 ≠ .powerOn := by
  cases a with
  | host =>
    simp only [turnOf, hostTurn]
    split
    · exact Turn.noConfusion
    · split
      · exact Turn.noConfusion
      · exact Turn.noConfusion
  | timer h =>
    rw [turnOf]
    split
    · exact Turn.noConfusion
    · exact Turn.noConfusion
  | taskBegin =>
    simp only [turnOf]
    split
    · exact Turn.noConfusion
    · exact Turn.noConfusion
  | taskVisit h =>
    simp only [turnOf]
    split
    · exact Turn.noConfusion
    · exact Turn.noConfusion
  | taskEnd =>
    simp only [turnOf]
    split
    · exact Turn.noConfusion
    · exact Turn.noConfusion
  | powerOn => exact absurd rfl ha

/-- Choosing what to do, the presented word and the compared tick included, changes nothing of the block. -/
theorem turnOf_same (s : State) (a : Agent) : SameBlock s (turnOf s a).2 := by
  cases a with
  | host => exact present_same s
  | timer h =>
    rw [turnOf]
    split
    · exact SameBlock.refl s
    · exact useTick_same s
  | taskBegin => exact SameBlock.refl s
  | taskVisit h => exact SameBlock.refl s
  | taskEnd => exact SameBlock.refl s
  | powerOn => exact SameBlock.refl s

theorem step_of_halted (hs : s.halted = true) (ha : s.nextAgent ≠ .powerOn) : step s = .fault .halted := by
  have same : SameBlock s (nextTurn s).2 := (useAgent_same s).trans (turnOf_same s.useAgent s.nextAgent)
  have halted : (nextTurn s).2.halted = true := same.halted.trans hs
  have notReset : (nextTurn s).1 ≠ .powerOn := turnOf_ne_powerOn ha
  rw [step]
  split
  case h_1 turn => exact absurd (congrArg Prod.fst turn) notReset
  all_goals
    rename_i turn
    rw [turn] at halted
    exact haltedStop_of_halted halted _

/-- Settles O11. -/
theorem haltLeftOnlyByPowerOn : Obligations.HaltLeftOnlyByPowerOn := by
  unfold Obligations.HaltLeftOnlyByPowerOn
  intro s
  refine ⟨step_of_halted, fun agent => ?_⟩
  have same := useAgent_same s
  refine ⟨_, step_of_powerOn agent, rfl, rfl, rfl, rfl, rfl, rfl, fun _ => rfl, same.params,
    (powerOnReset_nInst _).trans same.nInst, fun h _ => ?_⟩
  rw [powerOnReset_inst]
  exact ⟨reset_atPowerOn, rfl⟩

theorem running_of_halted (hs : s.halted = true) (r : Result) : running s r = .fault .halted := if_pos hs

theorem onInst_of_halted (hs : s.halted = true) (h : Handle) (r : Result) : onInst s h r = .fault .halted :=
  running_of_halted hs _

theorem exec_of_halted (i : Instr) (hs : s.halted = true) : exec i s = .fault .halted := by
  cases i
  case taskBegin | taskEnd | decode24 | encodeRec => exact running_of_halted hs _
  all_goals exact onInst_of_halted hs _ _

/-- Settles O10: every operation runs under the guard of the halt. -/
theorem haltedBlocksEveryOperation : Obligations.HaltedBlocksEveryOperation := by
  unfold Obligations.HaltedBlocksEveryOperation
  exact fun i _ hs => exec_of_halted i hs

theorem exec_fatalHalt_of_ready (hr : Ready s h) (c : FatalCause) :
    exec (.fatalHalt h c) s = .next (s.raiseFatal h c) := onInst_of hr _

/-- The numbers of R302. -/
theorem causeByte_toNat (c : FatalCause) :
    (causeByte c).toNat =
      match c with
      | .configSelector => 1
      | .allOnes => 2
      | .outOfRange => 3
      | .readyAfterRead => 4 := by
  cases c with
  | configSelector => rfl
  | allOnes => rfl
  | outOfRange => rfl
  | readyAfterRead => rfl

/-- Settles O37. -/
theorem fatalHaltEntry : Obligations.FatalHaltEntry := by
  unfold Obligations.FatalHaltEntry
  intro s h c hr
  have halted : (s.raiseFatal h c).halted = true := rfl
  refine ⟨_, exec_fatalHalt_of_ready hr c, rfl, causeByte_toNat c, fun i => exec_of_halted i halted, fun u hu => ?_⟩
  by_contra other
  rw [step_of_halted halted other] at hu
  cases hu

end Sys2Proof.Machine
end

section
/-! The host commands that wait, that are refused, and the stop that is done twice (47_host_commands.md R272, R275). -/

namespace Sys2Proof.Machine

variable {s : State} {h : Handle} {i : Inst} {bar : Option Refusal}

/-! ### Waiting at the port (R275) -/

theorem admission_waits (hr : Ready s h) (hb : bar = none) (busy : s.task ≠ .idle) (run : State → Result) :
    admission s h bar run = .next s := by
  subst hb
  exact (onInst_of hr _).trans (if_neg busy)

/-- Settles O17. -/
theorem commandWaitsDuringPass : Obligations.CommandWaitsDuringPass := by
  unfold Obligations.CommandWaitsDuringPass
  intro s h S hr pass
  have busy : s.task ≠ .idle := fun idle => by rw [pass] at idle; cases idle
  refine ⟨fun hc st po g a b => ?_, fun hc => ⟨fun n => ?_, ?_, fun register strict c => ?_⟩⟩
  · rw [exec_configure, admission_waits hr (barConfigured_of_unconfigured hc) busy]
  · rw [exec_startStop, admission_waits hr (barUnconfigured_of_configured hc) busy]
  · rw [exec_statusQuery, admission_waits hr (barUnconfigured_of_configured hc) busy]
  · rw [exec_attachConsumer, admission_waits hr ((barAttach_of_configured hc).trans (if_pos ⟨register, strict⟩)) busy]

/-! ### Refusals (U1, U2, U3) -/

theorem onInst_of_noInstance (hs : s.halted = false) (hn : s.nInst ≤ h.toNat) (r : Result) :
    onInst s h r = .refused .noSuchInstance := by
  rw [onInst, running_of hs, if_neg (by omega)]

theorem exec_of_noInstance (hs : s.halted = false) (hn : s.nInst ≤ h.toNat) {op : Instr} (names : op.handle? = some h) :
    exec op s = .refused .noSuchInstance := by
  cases op
  case taskBegin | taskEnd | decode24 | encodeRec => cases names
  all_goals
    obtain rfl := Option.some.inj names
    exact onInst_of_noInstance hs hn _

theorem barConfigured_of_configured (hc : i.configured = true) : barConfigured i = some .alreadyConfigured := if_pos hc

theorem barUnconfigured_of_unconfigured (hc : i.configured = false) : barUnconfigured i = some .notConfigured :=
  if_neg (Bool.eq_false_iff.1 hc)

theorem barAttach_of_unconfigured (hc : i.configured = false) : barAttach i = some .notConfigured :=
  if_neg (Bool.eq_false_iff.1 hc)

/-- Settles O18. -/
theorem commandsRefused : Obligations.CommandsRefused := by
  unfold Obligations.CommandsRefused
  intro s h hs
  refine ⟨fun hn op names => exec_of_noInstance hs hn names, fun hh hc st po g a b => ?_,
    fun hh hc => ⟨fun c => ?_, fun n => ?_, ?_⟩, fun hh hc other c => ?_⟩
  · rw [exec_configure, admission_refused ⟨hs, hh⟩ (barConfigured_of_configured hc)]
  · rw [exec_attachConsumer, admission_refused ⟨hs, hh⟩ (barAttach_of_unconfigured hc)]
  · rw [exec_startStop, admission_refused ⟨hs, hh⟩ (barUnconfigured_of_unconfigured hc)]
  · rw [exec_statusQuery, admission_refused ⟨hs, hh⟩ (barUnconfigured_of_unconfigured hc)]
  · have notB : ¬((s.inst h).strat = .register ∧ (s.inst h).policy = .escalateOnDesync) := by
      rintro ⟨register, strict⟩
      rw [register, strict] at other
      rcases other with bitbang | lenient
      · cases bitbang
      · cases lenient
    rw [exec_attachConsumer, admission_refused ⟨hs, hh⟩ ((barAttach_of_configured hc).trans (if_neg notB))]

/-! ### Stopping twice (R272) -/

theorem barUnconfigured_eq_none_iff : barUnconfigured i = none ↔ i.configured = true := by
  rw [barUnconfigured]
  cases i.configured with
  | true => exact iff_of_true rfl rfl
  | false => exact iff_of_false (fun same => by cases same) Bool.noConfusion

/-- Settles O19: a stop writes constants, so the second writes what the first left. -/
theorem stopIsIdempotent : Obligations.StopIsIdempotent := by
  unfold Obligations.StopIsIdempotent
  intro s t h idle ht
  rw [exec_startStop] at ht
  obtain ⟨hr, bar, ⟨_, run⟩ | ⟨busy, _⟩⟩ := admission_next ht
  · obtain rfl : startStop s.takeCommand h 0 = t := Host.Outcome.next.inj run
    have hc := barUnconfigured_eq_none_iff.1 bar
    have hh : h.toNat < s.takeCommand.nInst := hr.2
    have inst := startStop_inst_zero hh
    have frame := startStop_outside s.takeCommand h 0
    have hh' : h.toNat < (startStop s.takeCommand h 0).nInst := by rwa [frame.nInst]
    have again : Admitted (startStop s.takeCommand h 0) h := ⟨⟨frame.halted.trans hr.1, hh'⟩, frame.task.trans idle⟩
    have inst' := startStop_inst_zero again.inRange
    have frame' := startStop_outside (startStop s.takeCommand h 0).takeCommand h 0
    have hc' : ((startStop s.takeCommand h 0).inst h).configured = true := by
      rw [inst]
      exact hc
    refine ⟨phase_of_rest_zero (congrArg Inst.rest inst), congrArg Inst.used inst, congrArg Inst.tmrArmed inst,
      congrArg Inst.pending inst, _, exec_startStop_of_admitted again hc' 0, fun k => ?_,
      SameMemory.of_takeCommand frame' (startStop_buf again.inRange 0), frame'.wake, frame'.task⟩
    by_cases hk : k = h
    · rw [hk, inst', State.takeCommand_inst, inst]
    · exact frame'.others k hk
  · exact absurd idle busy

end Sys2Proof.Machine
end

section
/-! XFER_BB run on its own (41_transfer_engine.md R142): its result on an instance, configured or not, and the shape of its train. -/

namespace Sys2Proof.Machine

variable {s t : State} {h : Handle}

theorem selectorLegal_iff {g : BitVec 3} : selectorLegal g = true ↔ 1 ≤ g.toNat ∧ g.toNat ≤ 4 := by
  rw [selectorLegal, Bool.and_eq_true, decide_eq_true_iff, decide_eq_true_iff]

theorem exec_xferBb (hr : Ready s h) :
    exec (.xferBb h) s =
      within ((s.inst h).strat = .bitbang && selectorLegal (s.inst h).gainsel) (.next (xferBb s h)) :=
  onInst_of hr _

theorem exec_xferBb_of_ready (hr : Ready s h) (hst : (s.inst h).strat = .bitbang)
    (hg : selectorLegal (s.inst h).gainsel = true) : exec (.xferBb h) s = .next (xferBb s h) := by
  rw [exec_xferBb hr, decide_eq_true hst, hg, Bool.and_self, within_true]

theorem xferBb_memory (hh : h.toNat < s.nInst) : SameMemory s (xferBb s h) :=
  SameMemory.of_outside (xferBb_outside s h) (by rw [xferBb_inst hh])

/-- Pulse k, from 1, is bit 24 - k of the accumulator (R105). -/
theorem dataTrainAcc_pulse (hh : h.toNat < s.nInst) {k : Nat} (h1 : 1 ≤ k) (h24 : k ≤ 24) :
    (dataTrainAcc s h true 0 dataPulses).getLsbD (24 - k) =
      s.levelAt (s.inst h).pinA (s.env.levelPos + (k - 1)) := by
  have index : dataPulses - 1 - (24 - k) = k - 1 := by simp only [dataPulses]; omega
  rw [dataTrainAcc_getLsbD hh true 0 dataPulses (24 - k) (by omega), if_pos (by simp only [dataPulses]; omega), index]

/-- XFER_BB with its result, its frame and its train, whatever CONFIGURED is. -/
theorem exec_xferBb_result (hr : Ready s h) (hst : (s.inst h).strat = .bitbang) (h1 : 1 ≤ (s.inst h).gainsel.toNat)
    (h4 : (s.inst h).gainsel.toNat ≤ 4) :
    ∃ t acc, exec (.xferBb h) s = .next t ∧
      t.inst h =
        { s.inst h with
          tstart := s.nextTick
          tdur := s.tickAt (s.env.tickPos + 1) - s.nextTick
          rafter := !(s.levelAt (s.inst h).pinA (s.env.levelPos + 24))
          acc := acc } ∧
      (∀ k, 1 ≤ k → k ≤ 24 → acc.getLsbD (24 - k) = s.levelAt (s.inst h).pinA (s.env.levelPos + (k - 1))) ∧
      SameOutside h s t ∧ SameMemory s t ∧
      (∀ q, t.pinLevel q = if q = (s.inst h).pinB then some false else s.pinLevel q) ∧ t.irqMasked = false ∧
      t.trace = s.trace ++ bitBangTrain s h s.env.levelPos ++
        [.now (s.tickAt (s.env.tickPos + 1)),
          .pinRead (s.inst h).pinA (s.levelAt (s.inst h).pinA (s.env.levelPos + 24))] := by
  have hh : h.toNat < s.nInst := hr.2
  exact ⟨_, _, exec_xferBb_of_ready hr hst (selectorLegal_iff.2 ⟨h1, h4⟩), xferBb_inst hh,
    fun k low high => dataTrainAcc_pulse hh low high, xferBb_outside s h, xferBb_memory hh, xferBb_pinLevel hh,
    xferBb_irqMasked s h, xferBb_trace hh⟩

/-- Settles O23: the hypothesis that the instance is configured is not needed. -/
theorem xferBbResult : Obligations.XferBbResult := by
  unfold Obligations.XferBbResult
  intro s h hr _ hst h1 h4
  obtain ⟨t, acc, run, inst, pulses, outside, memory, pins, mask, _⟩ := exec_xferBb_result hr hst h1 h4
  exact ⟨t, acc, run, inst, pulses, outside, memory, pins, mask⟩

/-- The masked window of pulse `k`, from 0, of a train (R143). -/
def trainWindow (s : State) (h : Handle) (pos k : Nat) : List Event :=
  [Event.irqMask] ++ (if k = 0 then [Event.now s.nextTick] else []) ++
    [Event.pinWrite (s.inst h).pinB true, Event.waitAtLeast s.params.tHighMinNs] ++
    (if k < 24 then [Event.pinRead (s.inst h).pinA (s.levelAt (s.inst h).pinA (pos + k))] else []) ++
    [Event.pinWrite (s.inst h).pinB false, Event.waitAtLeast s.params.tLowMinNs, Event.irqUnmask]

theorem bitBangTrain_eq_flatten (s : State) (h : Handle) (pos : Nat) :
    bitBangTrain s h pos = ((List.range (24 + (s.inst h).gainsel.toNat)).map (trainWindow s h pos)).flatten :=
  List.flatMap_def

/-- Settles O24: the windows of the train, one for each number below 24 + GAINSEL. -/
theorem bitBangTrainShape : Obligations.BitBangTrainShape := by
  unfold Obligations.BitBangTrainShape
  intro s t h ht
  obtain ⟨hr, guarded⟩ := onInst_next ht
  obtain rfl : xferBb s h = t := Host.Outcome.next.inj (within_next guarded).2
  have trace := xferBb_trace hr.2
  rw [List.append_assoc, bitBangTrain_eq_flatten] at trace
  refine ⟨_, _, _, trace, ?_, fun k v hk => ?_⟩
  · rw [List.length_map, List.length_range]
  · rw [List.getElem?_map] at hk
    obtain ⟨j, hj, rfl⟩ := Option.map_eq_some_iff.1 hk
    obtain rfl : k = j := by
      obtain ⟨_, same⟩ := List.getElem?_eq_some_iff.1 hj
      rwa [List.getElem_range] at same
    refine ⟨_, _, rfl, ?_, ?_⟩
    · split
      · exact ⟨_, rfl⟩
      · rfl
    · split
      · exact ⟨_, rfl⟩
      · rfl

end Sys2Proof.Machine
end

section
/-! Sequences of appends and the report of a flush (43_sample_buffer.md R191, R192; 47_host_commands.md R274). -/

namespace Sys2Proof.Machine

variable {s t : State} {h : Handle} {w : Word32} {ws : List Word32} {data : List Byte}

/-! ### SAMPLE_REPORT -/

theorem reportDue_iff {p : Params} {i : Inst} : reportDue p i = true ↔ i.used + 4 > capBytes p ∨ i.err ≠ 0 := by
  rw [reportDue, bufferFull, Bool.or_eq_true, decide_eq_true_iff, decide_eq_true_iff]
  rfl

theorem exec_sampleReport (hr : Ready s h) :
    exec (.sampleReport h) s = whenEnabled (reportDue s.params (s.inst h)) (ofExcept (emitReport s h)) := onInst_of hr _

/-- Settles O33. -/
theorem sampleReportEmits : Obligations.SampleReportEmits := by
  unfold Obligations.SampleReportEmits
  intro s h data hr hu hdue hl hd
  rw [exec_sampleReport hr, reportDue_iff.2 hdue, whenEnabled_true, emitReport_ok hu (readBytes_of_bytes hl hd)]
  rfl

/-! ### Appends one after the other -/

theorem capBytes_eq (p : Params) : capBytes p = 4 * capSlots p := rfl

theorem capSlots_pos (p : Params) : 1 ≤ capSlots p := Nat.one_le_two_pow

/-- Whole records up to the capacity leave room for one more or fill the buffer (R32). -/
theorem room_or_full {p : Params} {i : Inst} (hw : Holds i ws) (fits : ws.length ≤ capSlots p) :
    i.used + 4 ≤ capBytes p ∨ i.used = capBytes p := by
  obtain ⟨used, _⟩ := hw
  rw [used, capBytes_eq, recBytes]
  omega

theorem reportFrame_data (s : State) (h : Handle) (data : List Byte) : (reportFrame s h data).data = data := rfl

/-- One append to a buffer of whole records: what was reported and what is held are the old records and the new one, in order. -/
theorem append_once (hr : Ready s h) (hw : Holds (s.inst h) ws) (fits : ws.length ≤ capSlots s.params) (w : Word32) :
    ∃ t rs held,
      exec (.bufAppend h w) s = .next t ∧ SameOutside h s t ∧ (t.inst h).err = (s.inst h).err ∧
      reportsOf t.trace = reportsOf s.trace ++ rs ∧ Holds (t.inst h) held ∧
      rs.flatMap (fun r => r.data) ++ recordBytes held = recordBytes (ws ++ [w]) ∧
      (∀ r ∈ rs, r.h = h ∧ r.err = (s.inst h).err ∧ r.data.length = capBytes s.params) ∧
      held.length ≤ capSlots s.params ∧ held ≠ [] := by
  have slots := capSlots_pos s.params
  have space := room_or_full hw fits
  obtain ⟨used, bytes⟩ := hw
  rcases space with room | full
  · obtain ⟨t, ht, a⟩ := bufAppend_room hr.2 room w
    have held : Holds (t.inst h) (ws ++ [w]) := holds_append ⟨used, bytes⟩ (by rw [a.inst]) (by rw [a.inst])
    have silent : reportsOf t.trace = reportsOf s.trace ++ [] := by rw [a.trace, reportsOf_append, reportsOf_nil]
    refine ⟨t, [], ws ++ [w], exec_bufAppend_of_ok hr ht, a.outside, by rw [a.inst], silent, held, rfl, by simp, ?_, by simp⟩
    rw [used, capBytes_eq, recBytes] at room
    rw [List.length_append, List.length_singleton]
    omega
  · obtain ⟨t, ht, a⟩ := bufAppend_full hr.2 full bytes w
    have held : Holds (t.inst h) [w] := holds_single (i := s.inst h) (by rw [a.inst]) (by rw [a.inst])
    have reported : reportsOf t.trace = reportsOf s.trace ++ [reportFrame s h (recordBytes ws)] := by
      rw [a.trace, reportsOf_append]
      rfl
    refine ⟨t, _, [w], exec_bufAppend_of_ok hr ht, a.outside, by rw [a.inst], reported, held, ?_, ?_, slots, by simp⟩
    · rw [List.flatMap_singleton, reportFrame_data, recordBytes_append]
    · intro r hr'
      obtain rfl := List.mem_singleton.1 hr'
      refine ⟨rfl, rfl, ?_⟩
      rw [reportFrame_data, recordBytes_length, ← full, used, recBytes]

/-- Any list of appends to a buffer that holds `held`. -/
theorem appendAll_holds (hr : Ready s h) {held : List Word32} (hw : Holds (s.inst h) held)
    (fits : held.length ≤ capSlots s.params) (ws : List Word32) :
    ∃ t rs held',
      appendAll h ws s = .next t ∧
      reportsOf t.trace = reportsOf s.trace ++ rs ∧ Holds (t.inst h) held' ∧
      rs.flatMap (fun r => r.data) ++ recordBytes held' = recordBytes (held ++ ws) ∧
      (∀ r ∈ rs, r.h = h ∧ r.err = (s.inst h).err ∧ r.data.length = capBytes s.params) ∧
      held'.length ≤ capSlots s.params ∧ (ws ≠ [] ∨ held ≠ [] → held' ≠ []) := by
  induction ws generalizing s held with
  | nil => exact ⟨s, [], held, rfl, by simp, hw, by simp, by simp, fits, by simp⟩
  | cons w ws ih =>
    obtain ⟨t, rs, mid, run, outside, err, reported, hmid, same, sound, fits', nonempty⟩ := append_once hr hw fits w
    have ready : Ready t h := ⟨outside.halted.trans hr.1, by rw [outside.nInst]; exact hr.2⟩
    obtain ⟨u, rs', last, run', reported', hlast, same', sound', fits'', nonempty'⟩ :=
      ih ready hmid (by rw [outside.params]; exact fits')
    rw [err, outside.params] at sound'
    rw [outside.params] at fits''
    refine ⟨u, rs ++ rs', last, ?_, ?_, hlast, ?_, ?_, fits'', fun _ => nonempty' (.inr nonempty)⟩
    · rw [appendAll, run]
      exact run'
    · rw [reported', reported, List.append_assoc]
    · rw [List.flatMap_append, List.append_assoc, same', recordBytes_append, ← List.append_assoc, same,
        ← recordBytes_append, List.append_assoc, List.singleton_append]
    · intro r hmem
      rcases List.mem_append.1 hmem with first | later
      · exact sound r first
      · exact sound' r later

/-- Settles O31: the appends from the empty buffer. -/
theorem appendsLoseNothing : Obligations.AppendsLoseNothing := by
  unfold Obligations.AppendsLoseNothing
  intro s h ws hr empty
  obtain ⟨t, rs, held, run, reported, hheld, same, sound, fits, nonempty⟩ :=
    appendAll_holds hr empty (Nat.zero_le _) ws
  exact ⟨t, rs, held, run, reported, hheld, same, sound, fits, fun some => nonempty (.inl some)⟩

end Sys2Proof.Machine
end

section
/-! The acquisition cycle (45_cycle_scheduler.md R240) up to its verdict, and its ends: deferred, sample, recoverable error, halt. Each
end is said once, relative to the state after the transfer. -/

namespace Sys2Proof.Machine

variable {s t : State} {h : Handle} {c : ErrorCode} {ws : List Word32}

/-! ### The state that the verdict is taken of -/

/-- The state of a cycle after CLASSIFY. -/
def judged (s : State) (h : Handle) : State := classify (measured s h) h

/-- The verdict of a cycle on its transfer. -/
def cycleVerdict (s : State) (h : Handle) : Verdict := classifyVerdict s.params ((measured s h).inst h)

/-- A cycle up to its transfer clears PENDING and writes the datapath registers of the transfer. -/
theorem measured_inst (hh : h.toNat < s.nInst) :
    ∃ ts td ac ra, (measured s h).inst h =
      { s.inst h with pending := false, tstart := ts, tdur := td, acc := ac, rafter := ra } := by
  have hp : h.toNat < (polled s h).nInst := by rwa [(polled_outside s h).nInst]
  obtain ⟨ts, td, ac, ra, inst⟩ := (transfer_measure hp).inst
  rw [polled_inst hh] at inst
  exact ⟨ts, td, ac, ra, inst⟩

theorem measured_outside (hh : h.toNat < s.nInst) : SameOutside h s (measured s h) := by
  have hp : h.toNat < (polled s h).nInst := by rwa [(polled_outside s h).nInst]
  exact (polled_outside s h).trans (transfer_measure hp).outside

theorem judged_outside (hh : h.toNat < s.nInst) : SameOutside h s (judged s h) :=
  (measured_outside hh).trans (classify_outside _ h)

theorem judged_inRange (hh : h.toNat < s.nInst) : h.toNat < (judged s h).nInst := by
  rwa [(judged_outside hh).nInst]

theorem judged_inst_eq (hh : h.toNat < s.nInst) :
    (judged s h).inst h =
      if cycleVerdict s h = .sample then
        { (measured s h).inst h with count := decodeCount ((measured s h).inst h).acc, oor := false }
      else (measured s h).inst h := by
  have hm : h.toNat < (measured s h).nInst := by rwa [(measured_outside hh).nInst]
  rw [judged, classify_inst_of_verdict hm, (measured_outside hh).params, cycleVerdict]

theorem judged_inst_of_sample (hh : h.toNat < s.nInst) (hv : cycleVerdict s h = .sample) :
    (judged s h).inst h =
      { (measured s h).inst h with count := decodeCount ((measured s h).inst h).acc, oor := false } :=
  (judged_inst_eq hh).trans (if_pos hv)

theorem judged_inst_of_ne_sample (hh : h.toNat < s.nInst) (hv : cycleVerdict s h ≠ .sample) :
    (judged s h).inst h = (measured s h).inst h :=
  (judged_inst_eq hh).trans (if_neg hv)

/-- Nothing before the verdict's consequences touches the buffer. -/
theorem judged_buffer (hh : h.toNat < s.nInst) :
    ((judged s h).inst h).buf = (s.inst h).buf ∧ ((judged s h).inst h).used = (s.inst h).used ∧
      ((judged s h).inst h).err = (s.inst h).err := by
  obtain ⟨ts, td, ac, ra, inst⟩ := measured_inst hh
  rw [judged_inst_eq hh, inst]
  split
  · exact ⟨rfl, rfl, rfl⟩
  · exact ⟨rfl, rfl, rfl⟩

theorem Holds.of_buffer {i j : Inst} (hw : Holds i ws) (hb : j.buf = i.buf) (hu : j.used = i.used) : Holds j ws := by
  rw [Holds, hb, hu]
  exact hw

theorem judged_holds (hh : h.toNat < s.nInst) (hw : Holds (s.inst h) ws) : Holds ((judged s h).inst h) ws := by
  obtain ⟨buf, used, _⟩ := judged_buffer hh
  exact hw.of_buffer buf used

theorem judged_nextTick (s : State) (h : Handle) : (judged s h).nextTick = (measured s h).nextTick := classify_nextTick _ h

theorem judged_trace (s : State) (h : Handle) : (judged s h).trace = (measured s h).trace := classify_trace _ h

theorem judged_pins (s : State) (h : Handle) : (judged s h).pins = (measured s h).pins := classify_pins _ h

theorem judged_irqMasked (s : State) (h : Handle) : (judged s h).irqMasked = (measured s h).irqMasked := classify_irqMasked _ h

/-! ### The cycle by its poll and its verdict -/

theorem service_of_high (hh : h.toNat < s.nInst) (high : s.nextLevel (s.inst h).pinA = true) :
    service s h = .ok (timerArm (polled s h) h) := by
  rw [service_eq hh, high]
  exact if_neg Bool.noConfusion

theorem service_of_low (hh : h.toNat < s.nInst) (low : s.nextLevel (s.inst h).pinA = false) :
    service s h = actOn (judged s h) h (cycleVerdict s h) := by
  have params : (transfer (polled s h) h).params = s.params := (measured_outside hh).params
  rw [service_eq hh, if_pos low, params]
  rfl

theorem exec_service_of_ok (hr : Ready s h) (hp : (s.inst h).pending = true) (ht : service s h = .ok t) :
    exec (.service h) s = .next t := by
  rw [exec_service_of_pending hr hp, ht, ofExcept_ok]

/-! ### A sample (R240, R191, R260) -/

/-- A sample that fits is delivered and stored at USED. -/
theorem service_sample_room (hh : h.toNat < s.nInst) (low : s.nextLevel (s.inst h).pinA = false)
    (hv : cycleVerdict s h = .sample) (room : (s.inst h).used + 4 ≤ capBytes s.params) :
    ∃ t, service s h = .ok t ∧
      CycleEnd h (judged s h) t
        (writeBytes (s.inst h).buf (s.inst h).used (encodeRec (decodeCount ((measured s h).inst h).acc)))
        ((s.inst h).used + 4) (s.inst h).err (delivery ((judged s h).inst h)) := by
  obtain ⟨buf, used, err⟩ := judged_buffer hh
  have room' : ((judged s h).inst h).used + 4 ≤ capBytes (judged s h).params := by
    rwa [used, (judged_outside hh).params]
  have count : ((judged s h).inst h).count = decodeCount ((measured s h).inst h).acc := by
    rw [judged_inst_of_sample hh hv]
  obtain ⟨t, ht, a⟩ := actOn_sample_room (judged_inRange hh) room'
  rw [buf, used, err, count] at a
  exact ⟨t, by rw [service_of_low hh low, hv, ht], a⟩

/-- A sample on a full buffer is delivered, the buffer reported, the sample stored at offset 0. -/
theorem service_sample_full (hh : h.toNat < s.nInst) (low : s.nextLevel (s.inst h).pinA = false)
    (hv : cycleVerdict s h = .sample) (full : (s.inst h).used = capBytes s.params) (hw : Holds (s.inst h) ws) :
    ∃ t, service s h = .ok t ∧
      CycleEnd h (judged s h) t
        (writeBytes (s.inst h).buf 0 (encodeRec (decodeCount ((measured s h).inst h).acc))) 4 (s.inst h).err
        (delivery ((judged s h).inst h) ++ [flushReport s h (recordBytes ws)]) := by
  obtain ⟨buf, used, err⟩ := judged_buffer hh
  have full' : ((judged s h).inst h).used = capBytes (judged s h).params := by
    rwa [used, (judged_outside hh).params]
  have count : ((judged s h).inst h).count = decodeCount ((measured s h).inst h).acc := by
    rw [judged_inst_of_sample hh hv]
  have report : flushReport (judged s h) h (recordBytes ws) = flushReport s h (recordBytes ws) := by
    rw [flushReport, reportFrame, used, err]
    rfl
  obtain ⟨t, ht, a⟩ := actOn_sample_full (judged_inRange hh) full' (judged_holds hh hw).2
  rw [buf, err, count, report] at a
  exact ⟨t, by rw [service_of_low hh low, hv, ht], a⟩

/-! ### A recoverable error (R214) -/

/-- An error with room: one report of the records held and the sentinel. -/
theorem service_error_room (hh : h.toNat < s.nInst) (low : s.nextLevel (s.inst h).pinA = false)
    (hv : cycleVerdict s h = .recoverable c) (room : (s.inst h).used + 4 ≤ capBytes s.params) (hw : Holds (s.inst h) ws) :
    ∃ t, service s h = .ok t ∧
      CycleEnd h (judged s h) t (writeBytes (s.inst h).buf (s.inst h).used (encodeRec sentinel)) 0 0
        [errorReport h c ((s.inst h).used + 4) (recordBytes (ws ++ [sentinel]))] := by
  obtain ⟨buf, used, _⟩ := judged_buffer hh
  have room' : ((judged s h).inst h).used + 4 ≤ capBytes (judged s h).params := by
    rwa [used, (judged_outside hh).params]
  obtain ⟨t, ht, a⟩ := actOn_recoverable_room (judged_inRange hh) room' (judged_holds hh hw) c
  rw [buf, used] at a
  exact ⟨t, by rw [service_of_low hh low, hv, ht], a⟩

/-- An error on a full buffer: a report of the records held, then one of the lone sentinel. -/
theorem service_error_full (hh : h.toNat < s.nInst) (low : s.nextLevel (s.inst h).pinA = false)
    (hv : cycleVerdict s h = .recoverable c) (full : (s.inst h).used = capBytes s.params) (hw : Holds (s.inst h) ws) :
    ∃ t, service s h = .ok t ∧
      CycleEnd h (judged s h) t (writeBytes (s.inst h).buf 0 (encodeRec sentinel)) 0 0
        [flushReport s h (recordBytes ws), errorReport h c 4 (recordBytes [sentinel])] := by
  obtain ⟨buf, used, err⟩ := judged_buffer hh
  have full' : ((judged s h).inst h).used = capBytes (judged s h).params := by
    rwa [used, (judged_outside hh).params]
  have report : flushReport (judged s h) h (recordBytes ws) = flushReport s h (recordBytes ws) := by
    rw [flushReport, reportFrame, used, err]
    rfl
  obtain ⟨t, ht, a⟩ := actOn_recoverable_full (judged_inRange hh) full' (judged_holds hh hw) c
  rw [buf, report] at a
  exact ⟨t, by rw [service_of_low hh low, hv, ht], a⟩

/-! ### A halt (R310) -/

theorem service_fatal (hh : h.toNat < s.nInst) (low : s.nextLevel (s.inst h).pinA = false) {cause : FatalCause}
    (hv : cycleVerdict s h = .fatal cause) : service s h = .ok ((judged s h).raiseFatal h cause) := by
  rw [service_of_low hh low, hv]
  rfl

/-! ### What a completed cycle leaves, read against the state before it -/

/-- The instance after a completed cycle, from the instance and the tick that the transfer left. -/
theorem CycleEnd.inst_of_judged {i : Inst} {tick : Tick} {m : Memory} {used : Nat} {err : Byte} {es : List Event}
    (a : CycleEnd h (judged s h) t m used err es) (hi : (judged s h).inst h = i) (hn : (measured s h).nextTick = tick) :
    t.inst h = { i with buf := m, used := used, err := err, tmrWake := tick + i.rest, tmrArmed := true } := by
  rw [a.inst, hi, judged_nextTick, hn]

theorem CycleEnd.outside_of_judged {m : Memory} {used : Nat} {err : Byte} {es : List Event}
    (a : CycleEnd h (judged s h) t m used err es) (hh : h.toNat < s.nInst) : SameOutside h s t :=
  (judged_outside hh).trans a.outside

theorem CycleEnd.pins_of_judged {m : Memory} {used : Nat} {err : Byte} {es : List Event}
    (a : CycleEnd h (judged s h) t m used err es) : t.pins = (measured s h).pins :=
  a.pins.trans (judged_pins s h)

theorem CycleEnd.pinLevel_of_judged {m : Memory} {used : Nat} {err : Byte} {es : List Event}
    (a : CycleEnd h (judged s h) t m used err es) (q : PinId) : t.pinLevel q = (measured s h).pinLevel q := by
  rw [State.pinLevel, a.pins_of_judged, State.pinLevel]

theorem CycleEnd.trace_of_judged {tick : Tick} {before : List Event} {m : Memory} {used : Nat} {err : Byte} {es : List Event}
    (a : CycleEnd h (judged s h) t m used err es) (hb : (measured s h).trace = before)
    (hn : (measured s h).nextTick = tick) : t.trace = before ++ es ++ [.irqMask, .now tick, .irqUnmask] := by
  rw [a.trace, judged_trace, judged_nextTick, hb, hn]

/-- The bytes after a completed cycle that stored a record at `x`. -/
theorem CycleEnd.bytes_of_judged {x used : Nat} {w : Word32} {err : Byte} {es : List Event}
    (a : CycleEnd h (judged s h) t (writeBytes (s.inst h).buf x (encodeRec w)) used err es) (hh : h.toNat < s.nInst) :
    (∀ j, j < 4 → t.byteAt h (x + j) = some (w.extractLsb' (8 * j) 8)) ∧
    ∀ k y, ¬(k = h ∧ x ≤ y ∧ y < x + 4) → t.byteAt k y = s.byteAt k y :=
  bytes_of_store (a.outside_of_judged hh) (by rw [a.inst])

/-- The same bytes where the record was stored at offset 0. -/
theorem CycleEnd.bytes_of_judged_zero {used : Nat} {w : Word32} {err : Byte} {es : List Event}
    (a : CycleEnd h (judged s h) t (writeBytes (s.inst h).buf 0 (encodeRec w)) used err es) (hh : h.toNat < s.nInst) :
    (∀ j, j < 4 → t.byteAt h j = some (w.extractLsb' (8 * j) 8)) ∧
    ∀ k y, ¬(k = h ∧ y < 4) → t.byteAt k y = s.byteAt k y := by
  simpa only [Nat.zero_add, Nat.zero_le, true_and] using a.bytes_of_judged hh

end Sys2Proof.Machine
end

section
/-! The acquisition cycle end to end (45_cycle_scheduler.md R240): each outcome with its whole trace and its frame. -/

namespace Sys2Proof.Machine

variable {s t : State} {h : Handle} {c : ErrorCode} {ws : List Word32}

/-! ### A cycle that finds the converter not ready -/

theorem deferral_inst (hh : h.toNat < s.nInst) :
    (timerArm (polled s h) h).inst h =
      { s.inst h with pending := false, tmrWake := s.nextTick + (s.inst h).rest, tmrArmed := true } := by
  rw [timerArm_inst (by rwa [(polled_outside s h).nInst]), polled_inst hh]
  rfl

theorem deferral_outside (s : State) (h : Handle) : SameOutside h s (timerArm (polled s h) h) :=
  (polled_outside s h).trans (timerArm_outside (polled s h) h)

theorem deferral_trace (hh : h.toNat < s.nInst) :
    (timerArm (polled s h) h).trace = s.trace ++
      [.irqMask, .irqUnmask, .pinRead (s.inst h).pinA (s.nextLevel (s.inst h).pinA), .irqMask, .now s.nextTick,
        .irqUnmask] := by
  rw [timerArm_trace, polled_trace hh, List.append_assoc]
  rfl

/-- Settles O44: after the poll nothing but the re-arming. -/
theorem serviceDefers : Obligations.ServiceDefers := by
  unfold Obligations.ServiceDefers
  intro s h hr pending high
  have hh : h.toNat < s.nInst := hr.2
  have outside := deferral_outside s h
  have buf : ((timerArm (polled s h) h).inst h).buf = (s.inst h).buf := by rw [deferral_inst hh]
  have trace := deferral_trace hh
  rw [high] at trace
  exact ⟨_, exec_service_of_ok hr pending (service_of_high hh high), deferral_inst hh, outside,
    SameMemory.of_outside outside buf, rfl, rfl, trace⟩

/-! ### The verdict by the transfer's registers -/

theorem cycleVerdict_eq {i : Inst} (hi : (measured s h).inst h = i) : cycleVerdict s h = classifyVerdict s.params i := by
  rw [cycleVerdict, hi]

theorem not_after_of_clear {i : Inst} (clear : i.rafter = false) : ¬(i.strat = .bitbang ∧ i.rafter = true) :=
  fun ⟨_, after⟩ => Bool.noConfusion (clear.symm.trans after)

theorem verdict_sample {p : Params} {i : Inst} (notAfter : ¬(i.strat = .bitbang ∧ i.rafter = true))
    (inTime : i.tdur.toNat < budgetTicks p i) (notOnes : ¬(i.policy = .escalateOnDesync ∧ i.acc = allOnes)) :
    classifyVerdict p i = .sample :=
  (classifyVerdict_eq_sample_iff p i).2 ⟨notAfter, mt (durationTooLong_iff p i).1 (by omega), notOnes⟩

theorem verdict_tooLong {p : Params} {i : Inst} (notAfter : ¬(i.strat = .bitbang ∧ i.rafter = true))
    (late : budgetTicks p i ≤ i.tdur.toNat) : classifyVerdict p i = .recoverable .transferTooLong := by
  rw [classifyVerdict_eq, if_neg notAfter, if_pos ((durationTooLong_iff p i).2 late)]

theorem verdict_allOnes {p : Params} {i : Inst} (notAfter : ¬(i.strat = .bitbang ∧ i.rafter = true))
    (inTime : i.tdur.toNat < budgetTicks p i) (ones : i.policy = .escalateOnDesync ∧ i.acc = allOnes) :
    classifyVerdict p i = .fatal .allOnes := by
  rw [classifyVerdict_eq, if_neg notAfter, if_neg (mt (durationTooLong_iff p i).1 (by omega)), if_pos ones]

theorem verdict_after_lenient {p : Params} {i : Inst} (after : i.strat = .bitbang ∧ i.rafter = true)
    (lenient : i.policy = .alwaysRecoverable) : classifyVerdict p i = .recoverable .readyAfterRead := by
  rw [classifyVerdict_eq, if_pos after, escalate_of_lenient (by rw [lenient]; exact Policy.noConfusion)]

theorem verdict_after_strict {p : Params} {i : Inst} (after : i.strat = .bitbang ∧ i.rafter = true)
    (strict : i.policy = .escalateOnDesync) : classifyVerdict p i = .fatal .readyAfterRead := by
  rw [classifyVerdict_eq, if_pos after, escalate_of_strict strict]

/-- The raw value is all ones exactly when the three bytes are FF (R104, R302). -/
theorem rawOfBytes_eq_allOnes_iff (rx : Bytes3) : rawOfBytes rx = allOnes ↔ rx = ⟨0xFF, 0xFF, 0xFF⟩ := by
  have split : allOnes = 0xFF#8 ++ 0xFF#8 ++ 0xFF#8 := rfl
  rw [rawOfBytes, split, append_eq_append_iff, append_eq_append_iff]
  constructor
  · rintro ⟨⟨first, second⟩, third⟩
    cases rx
    exact congrArg₂ (· ·) (congrArg₂ Bytes3.mk first second) third
  · rintro rfl
    exact ⟨⟨rfl, rfl⟩, rfl⟩

/-! ### Register cycles -/

/-- Settles O45. -/
theorem serviceRegisterSample : Obligations.ServiceRegisterSample := by
  unfold Obligations.ServiceRegisterSample
  intro s h hr pending register low inTime rx notOnes raw sampled before rearm
  have hh : h.toNat < s.nInst := hr.2
  obtain ⟨inst, _, pins, _, tick, trace⟩ := measured_register hh register low
  have verdict : cycleVerdict s h = .sample := by
    rw [cycleVerdict_eq inst]
    refine verdict_sample (not_after_of_clear rfl) (inTime.trans_eq (budgetTicks_register register _).symm) ?_
    rwa [rawOfBytes_eq_allOnes_iff]
  have after := judged_inst_of_sample hh verdict
  rw [inst] at after
  constructor
  · intro room
    obtain ⟨t, ht, a⟩ := service_sample_room hh low verdict room
    rw [after, inst] at a
    obtain ⟨stored, kept⟩ := a.bytes_of_judged hh
    have end_inst := a.inst_of_judged after tick
    have end_trace := a.trace_of_judged trace tick
    rw [List.append_assoc s.trace] at end_trace
    exact ⟨t, _, exec_service_of_ok hr pending ht, end_inst, a.outside_of_judged hh,
      a.pins_of_judged.trans pins, a.irqMasked, end_trace, stored, kept⟩
  · intro ws full hw
    obtain ⟨t, ht, a⟩ := service_sample_full hh low verdict full hw
    rw [after, inst] at a
    obtain ⟨stored, kept⟩ := a.bytes_of_judged_zero hh
    have end_inst := a.inst_of_judged after tick
    have end_trace := a.trace_of_judged trace tick
    rw [List.append_assoc s.trace, ← List.append_assoc _ (delivery _), ← List.append_assoc s.trace] at end_trace
    exact ⟨t, _, exec_service_of_ok hr pending ht, end_inst, a.outside_of_judged hh,
      a.pins_of_judged.trans pins, a.irqMasked, end_trace, stored, kept⟩

/-- A recoverable error of either strategy, by the instance, the record of the boundary and the tick that the transfer left. -/
theorem service_error (hh : h.toNat < s.nInst) (low : s.nextLevel (s.inst h).pinA = false)
    (hv : cycleVerdict s h = .recoverable c) (hw : Holds (s.inst h) ws)
    (space : (s.inst h).used + 4 ≤ capBytes s.params ∨ (s.inst h).used = capBytes s.params) {i : Inst}
    {before : List Event} {tick : Tick} (hi : (measured s h).inst h = i) (hb : (measured s h).trace = before)
    (hn : (measured s h).nextTick = tick) :
    ∃ t m, service s h = .ok t ∧
      t.inst h = { i with buf := m, used := 0, err := 0, tmrWake := tick + i.rest, tmrArmed := true } ∧
      SameOutside h s t ∧ t.pins = (measured s h).pins ∧ t.irqMasked = false ∧
      ((s.inst h).used + 4 ≤ capBytes s.params →
        t.trace = before ++ [errorReport h c ((s.inst h).used + 4) (recordBytes (ws ++ [sentinel]))] ++
          [.irqMask, .now tick, .irqUnmask] ∧
        ∀ k a, ¬(k = h ∧ (s.inst h).used ≤ a ∧ a < (s.inst h).used + 4) → t.byteAt k a = s.byteAt k a) ∧
      ((s.inst h).used = capBytes s.params →
        t.trace = before ++ [flushReport s h (recordBytes ws), errorReport h c 4 [0, 0, 0, 0x80]] ++
          [.irqMask, .now tick, .irqUnmask] ∧
        ∀ k a, ¬(k = h ∧ a < 4) → t.byteAt k a = s.byteAt k a) := by
  have failed : (judged s h).inst h = i := by
    rw [judged_inst_of_ne_sample hh (by rw [hv]; exact Verdict.noConfusion), hi]
  rcases space with room | full
  · have notFull : (s.inst h).used ≠ capBytes s.params := by omega
    obtain ⟨t, ht, a⟩ := service_error_room hh low hv room hw
    exact ⟨t, _, ht, a.inst_of_judged failed hn, a.outside_of_judged hh, a.pins_of_judged, a.irqMasked,
      fun _ => ⟨a.trace_of_judged hb hn, (a.bytes_of_judged hh).2⟩, fun full => absurd full notFull⟩
  · have noRoom : ¬(s.inst h).used + 4 ≤ capBytes s.params := by omega
    obtain ⟨t, ht, a⟩ := service_error_full hh low hv full hw
    have end_trace := a.trace_of_judged hb hn
    rw [recordBytes_singleton, encodeRec_sentinel] at end_trace
    exact ⟨t, _, ht, a.inst_of_judged failed hn, a.outside_of_judged hh, a.pins_of_judged, a.irqMasked,
      fun room => absurd room noRoom, fun _ => ⟨end_trace, (a.bytes_of_judged_zero hh).2⟩⟩

/-- Settles O46. -/
theorem serviceRegisterTooLong : Obligations.ServiceRegisterTooLong := by
  unfold Obligations.ServiceRegisterTooLong
  intro s h ws hr pending hw register low late rx failed before rearm space
  have hh : h.toNat < s.nInst := hr.2
  obtain ⟨inst, _, pins, _, tick, trace⟩ := measured_register hh register low
  have verdict : cycleVerdict s h = .recoverable .transferTooLong := by
    rw [cycleVerdict_eq inst]
    exact verdict_tooLong (not_after_of_clear rfl) ((budgetTicks_register register _).trans_le late)
  obtain ⟨t, m, ht, end_inst, outside, end_pins, mask, room, full⟩ := service_error hh low verdict hw space inst trace tick
  exact ⟨t, m, exec_service_of_ok hr pending ht, end_inst, outside, end_pins.trans pins, mask, room, full⟩

/-- A halt of either strategy: the state that the transfer left, and the halt registers. -/
theorem service_halt (hh : h.toNat < s.nInst) (low : s.nextLevel (s.inst h).pinA = false) {cause : FatalCause}
    (hv : cycleVerdict s h = .fatal cause) {i : Inst} {before : List Event} (hi : (measured s h).inst h = i)
    (hb : (measured s h).trace = before) (mask : (measured s h).irqMasked = false) :
    ∃ t, service s h = .ok t ∧ t.halted = true ∧ t.haltCause = causeByte cause ∧ t.haltH = h ∧ t.inst h = i ∧
      (∀ k, k ≠ h → t.inst k = s.inst k) ∧ SameMemory s t ∧ t.params = s.params ∧ t.nInst = s.nInst ∧ t.task = s.task ∧
      t.wake = s.wake ∧ t.port = s.port ∧ t.sched = s.sched ∧ t.irqMasked = false ∧ t.pins = (measured s h).pins ∧
      t.trace = before := by
  have outside := judged_outside hh
  have stopped : (judged s h).inst h = i := by
    rw [judged_inst_of_ne_sample hh (by rw [hv]; exact Verdict.noConfusion), hi]
  obtain ⟨buf, _, _⟩ := judged_buffer hh
  have memory : SameMemory s (judged s h) := SameMemory.of_outside outside buf
  exact ⟨_, service_fatal hh low hv, rfl, rfl, rfl, stopped, outside.others, memory,
    outside.params, outside.nInst, outside.task, outside.wake, outside.port, outside.sched,
    (judged_irqMasked s h).trans mask, judged_pins s h, (judged_trace s h).trans hb⟩

/-- Settles O50. -/
theorem serviceAllOnesHalts : Obligations.ServiceAllOnesHalts := by
  unfold Obligations.ServiceAllOnesHalts
  intro s h hr pending register strict low inTime ones
  have hh : h.toNat < s.nInst := hr.2
  obtain ⟨inst, _, pins, mask, _, trace⟩ := measured_register hh register low
  have raw : rawOfBytes (s.nextSpi (s.inst h).pinB) = allOnes := (rawOfBytes_eq_allOnes_iff _).2 ones
  have verdict : cycleVerdict s h = .fatal .allOnes := by
    rw [cycleVerdict_eq inst]
    exact verdict_allOnes (not_after_of_clear rfl) (inTime.trans_eq (budgetTicks_register register _).symm) ⟨strict, raw⟩
  rw [raw] at inst
  rw [ones] at trace
  obtain ⟨t, ht, halted, cause, handle, end_inst, others, memory, params, nInst, task, wake, port, sched, end_mask, end_pins,
    end_trace⟩ := service_halt hh low verdict inst trace mask
  exact ⟨t, exec_service_of_ok hr pending ht, halted, cause, handle, end_inst, others, memory, params, nInst, task, wake, port,
    sched, end_mask, end_pins.trans pins, end_trace⟩

/-! ### Bit-bang cycles -/

/-- Settles O47. -/
theorem serviceBitBangSample : Obligations.ServiceBitBangSample := by
  unfold Obligations.ServiceBitBangSample
  intro s h raw hr pending bitbang low levels last inTime notOnes sampled before rearm
  have hh : h.toNat < s.nInst := hr.2
  obtain ⟨inst, _, pins, _, tick, trace⟩ := measured_bitbang hh bitbang low levels
  rw [last] at inst trace
  rw [List.append_assoc s.trace, List.append_assoc s.trace] at trace
  have verdict : cycleVerdict s h = .sample := by
    rw [cycleVerdict_eq inst]
    exact verdict_sample (not_after_of_clear rfl) (inTime.trans_eq (budgetTicks_bitbang bitbang _).symm) notOnes
  have after := judged_inst_of_sample hh verdict
  rw [inst] at after
  constructor
  · intro room
    obtain ⟨t, ht, a⟩ := service_sample_room hh low verdict room
    rw [after, inst] at a
    obtain ⟨stored, kept⟩ := a.bytes_of_judged hh
    have end_inst := a.inst_of_judged after tick
    have end_trace := a.trace_of_judged trace tick
    rw [List.append_assoc s.trace] at end_trace
    exact ⟨t, _, exec_service_of_ok hr pending ht, end_inst, a.outside_of_judged hh,
      fun q => (a.pinLevel_of_judged q).trans (pins q), a.irqMasked, end_trace, stored, kept⟩
  · intro ws full hw
    obtain ⟨t, ht, a⟩ := service_sample_full hh low verdict full hw
    rw [after, inst] at a
    obtain ⟨stored, kept⟩ := a.bytes_of_judged_zero hh
    have end_inst := a.inst_of_judged after tick
    have end_trace := a.trace_of_judged trace tick
    rw [List.append_assoc s.trace, ← List.append_assoc _ (delivery _), ← List.append_assoc s.trace] at end_trace
    exact ⟨t, _, exec_service_of_ok hr pending ht, end_inst, a.outside_of_judged hh,
      fun q => (a.pinLevel_of_judged q).trans (pins q), a.irqMasked, end_trace, stored, kept⟩

/-- Settles O48: ready after the read under the lenient policy, or else too long. -/
theorem serviceBitBangError : Obligations.ServiceBitBangError := by
  unfold Obligations.ServiceBitBangError
  intro s h raw ws code hr pending hw bitbang low levels last why failed before rearm space
  have hh : h.toNat < s.nInst := hr.2
  obtain ⟨inst, _, pins, _, tick, trace⟩ := measured_bitbang hh bitbang low levels
  rw [List.append_assoc s.trace, List.append_assoc s.trace] at trace
  have verdict : ∃ c, cycleVerdict s h = .recoverable c ∧ errorByte c = code := by
    rw [cycleVerdict_eq inst]
    rcases why with ⟨after, lenient, rfl⟩ | ⟨clear, late, rfl⟩
    · exact ⟨_, verdict_after_lenient ⟨bitbang, congrArg (! ·) after⟩ lenient, rfl⟩
    · exact ⟨_, verdict_tooLong (not_after_of_clear (congrArg (! ·) clear))
        ((budgetTicks_bitbang bitbang _).trans_le late), rfl⟩
  obtain ⟨c, verdict, rfl⟩ := verdict
  obtain ⟨t, m, ht, end_inst, outside, end_pins, mask, room, full⟩ := service_error hh low verdict hw space inst trace tick
  have levels' : ∀ q, t.pinLevel q = (measured s h).pinLevel q := fun q => by
    rw [State.pinLevel, end_pins, State.pinLevel]
  exact ⟨t, m, exec_service_of_ok hr pending ht, end_inst, outside, fun q => (levels' q).trans (pins q), mask, room, full⟩

/-- Settles O49: ready after the read, or all ones in time. -/
theorem serviceBitBangHalts : Obligations.ServiceBitBangHalts := by
  unfold Obligations.ServiceBitBangHalts
  intro s h raw cause hr pending bitbang strict low levels last why
  have hh : h.toNat < s.nInst := hr.2
  obtain ⟨inst, _, pins, mask, _, trace⟩ := measured_bitbang hh bitbang low levels
  have verdict : ∃ c, cycleVerdict s h = .fatal c ∧ causeByte c = cause := by
    rw [cycleVerdict_eq inst]
    rcases why with ⟨after, rfl⟩ | ⟨clear, inTime, ones, rfl⟩
    · exact ⟨_, verdict_after_strict ⟨bitbang, congrArg (! ·) after⟩ strict, rfl⟩
    · exact ⟨_, verdict_allOnes (not_after_of_clear (congrArg (! ·) clear))
        (inTime.trans_eq (budgetTicks_bitbang bitbang _).symm) ⟨strict, ones⟩, rfl⟩
  obtain ⟨c, verdict, rfl⟩ := verdict
  obtain ⟨t, ht, halted, cause, handle, end_inst, others, memory, params, nInst, task, wake, port, sched, end_mask, end_pins,
    end_trace⟩ := service_halt hh low verdict inst trace mask
  have levels' : ∀ q, t.pinLevel q = (measured s h).pinLevel q := fun q => by
    rw [State.pinLevel, end_pins, State.pinLevel]
  exact ⟨t, exec_service_of_ok hr pending ht, halted, cause, handle, end_inst, others, memory, params, nInst, task, wake, port,
    sched, end_mask, fun q => (levels' q).trans (pins q), end_trace⟩

end Sys2Proof.Machine
end

section
/-! What one step can do, once for every agent (00_scope.md R13): the turn's effect on the block, with the conditions under which the
operation was taken. The invariant, the configuration and the phases are read off this list. -/

namespace Sys2Proof.Machine

variable {s t u : State} {h : Handle}

/-- The effects of a step that gives a next state. `u` is the block as the operation finds it: the turn taken, the word accepted, the
tick compared. -/
inductive StepEffect (s : State) : State → Prop
  | powerOn : s.nextAgent = .powerOn → StepEffect s s.useAgent.powerOnReset
  | pass {t : State} : SameBlock s t → StepEffect s t
  | configureHalt {u : State} {h : Handle} : SameBlock s u → s.halted = false → u.task = .idle → h.toNat < u.nInst →
      StepEffect s (u.raiseFatal h .configSelector)
  | configure {u : State} {h : Handle} {st : Strategy} {po : Policy} {g : BitVec 3} {a b : PinId} : SameBlock s u →
      s.halted = false → u.task = .idle → h.toNat < u.nInst → (u.inst h).configured = false →
      selectorIllegal st g = false → StepEffect s (configureWrites u h st po g a b)
  | attach {u : State} {h c : Handle} : SameBlock s u → s.halted = false → u.task = .idle → h.toNat < u.nInst →
      (u.inst h).configured = true → (u.inst h).variantB = true → StepEffect s (u.modInst h (withConsumer c))
  | startStop {u : State} {h : Handle} {n : Tick} {w : Cmd64} {ws : List Cmd64} : SameBlock s u → s.halted = false →
      u.task = .idle → h.toNat < u.nInst → (u.inst h).configured = true → s.nextAgent = .host →
      s.useAgent.present.port = w :: ws → decode w = .ok (.startStop h n) → StepEffect s (startStop u h n)
  | statusQuery {u : State} {h : Handle} : SameBlock s u → s.halted = false → h.toNat < u.nInst →
      StepEffect s (statusQuery u h)
  | timer {u : State} {h : Handle} : SameBlock s u → s.halted = false → h.toNat < u.nInst → s.nextAgent = .timer h →
      (u.inst h).configured = true → (u.inst h).tmrArmed = true → StepEffect s (timerFire u h)
  | taskBegin {u : State} : SameBlock s u → s.halted = false → StepEffect s (taskBegin u)
  | skip {u : State} {h : Handle} {S : List Handle} : SameBlock s u → s.halted = false → h.toNat < u.nInst →
      u.task = .pass S → (u.inst h).pending = false → StepEffect s (leavePass u h)
  | visit {u t : State} {h : Handle} {S : List Handle} : SameBlock s u → s.halted = false → h.toNat < u.nInst →
      u.task = .pass S → h ∈ S → (u.inst h).pending = true → s.nextAgent = .taskVisit h →
      service (leavePass u h) h = .ok t → StepEffect s t
  | taskEnd {u : State} : SameBlock s u → s.halted = false → u.task = .pass [] → StepEffect s { u with task := .idle }

theorem barConfigured_eq_none_iff {i : Inst} : barConfigured i = none ↔ i.configured = false := by
  rw [barConfigured]
  cases i.configured with
  | true => exact iff_of_false (fun same => by cases same) Bool.noConfusion
  | false => exact iff_of_true rfl rfl

theorem barAttach_eq_none {i : Inst} (hb : barAttach i = none) : i.configured = true ∧ i.variantB = true := by
  rw [barAttach] at hb
  split at hb
  case isTrue configured =>
    split at hb
    case isTrue variant => exact ⟨configured, variant⟩
    case isFalse => cases hb
  case isFalse => cases hb

/-- The effect of a command on the host's turn (R270 to R275). -/
theorem stepEffect_of_command {w : Cmd64} {ws : List Cmd64} {i : Instr} (agent : s.nextAgent = .host)
    (hp : s.useAgent.present.port = w :: ws) (hd : decode w = .ok i) (he : exec i s.useAgent.present = .next t) :
    StepEffect s t := by
  have same : SameBlock s s.useAgent.present := (useAgent_same s).trans (present_same _)
  have taken : SameBlock s s.useAgent.present.takeCommand := same.trans (takeCommand_same _)
  rcases decode_command hd with ⟨h, st, po, g, a, b, rfl⟩ | ⟨h, c, rfl⟩ | ⟨h, n, rfl⟩ | ⟨h, rfl⟩
  · rw [exec_configure] at he
    obtain ⟨hr, bar, ⟨idle, run⟩ | ⟨_, rfl⟩⟩ := admission_next he
    · have unhalted : s.halted = false := same.halted.symm.trans hr.1
      cases illegal : selectorIllegal st g with
      | true =>
        rw [if_pos illegal] at run
        obtain rfl := Host.Outcome.next.inj run
        exact .configureHalt taken unhalted idle hr.2
      | false =>
        rw [if_neg (by rw [illegal]; exact Bool.noConfusion)] at run
        obtain rfl := Host.Outcome.next.inj run
        exact .configure taken unhalted idle hr.2 (barConfigured_eq_none_iff.1 bar) illegal
    · exact .pass same
  · rw [exec_attachConsumer] at he
    obtain ⟨hr, bar, ⟨idle, run⟩ | ⟨_, rfl⟩⟩ := admission_next he
    · obtain rfl := Host.Outcome.next.inj run
      obtain ⟨configured, variant⟩ := barAttach_eq_none bar
      exact .attach taken (same.halted.symm.trans hr.1) idle hr.2 configured variant
    · exact .pass same
  · rw [exec_startStop] at he
    obtain ⟨hr, bar, ⟨idle, run⟩ | ⟨_, rfl⟩⟩ := admission_next he
    · obtain rfl := Host.Outcome.next.inj run
      exact .startStop taken (same.halted.symm.trans hr.1) idle hr.2 (barUnconfigured_eq_none_iff.1 bar) agent hp hd
    · exact .pass same
  · rw [exec_statusQuery] at he
    obtain ⟨hr, _, ⟨_, run⟩ | ⟨_, rfl⟩⟩ := admission_next he
    · obtain rfl := Host.Outcome.next.inj run
      exact .statusQuery taken (same.halted.symm.trans hr.1) hr.2
    · exact .pass same

theorem exec_timerFire_next (he : exec (.timerFire h) s = .next t) :
    Ready s h ∧ timerFireEnabled s h s.nextTick = true ∧ t = timerFire s.useTick h := by
  obtain ⟨hr, guarded⟩ := onInst_next he
  obtain ⟨enabled, run⟩ := whenEnabled_next guarded
  exact ⟨hr, enabled, (Host.Outcome.next.inj run).symm⟩

theorem exec_taskBegin_next (he : exec .taskBegin s = .next t) : t = taskBegin s := by
  obtain ⟨_, guarded⟩ := running_next he
  exact (Host.Outcome.next.inj (whenEnabled_next guarded).2).symm

theorem exec_taskEnd_next (he : exec .taskEnd s = .next t) : s.task = .pass [] ∧ t = { s with task := .idle } := by
  obtain ⟨_, guarded⟩ := running_next he
  obtain ⟨enabled, run⟩ := whenEnabled_next guarded
  exact ⟨(taskEndEnabled_iff.1 enabled).2, (Host.Outcome.next.inj run).symm⟩

theorem exec_taskVisit_next (he : exec (.taskVisit h) s = .next t) :
    Ready s h ∧ ∃ S, s.task = .pass S ∧ h ∈ S ∧
      (((s.inst h).pending = true ∧ service (leavePass s h) h = .ok t) ∨
        ((s.inst h).pending = false ∧ t = leavePass s h)) := by
  obtain ⟨hr, guarded⟩ := onInst_next he
  obtain ⟨enabled, run⟩ := whenEnabled_next guarded
  obtain ⟨_, S, pass, member⟩ := taskVisitEnabled_iff.1 enabled
  refine ⟨hr, S, pass, member, ?_⟩
  split at run
  case isTrue pending => exact .inl ⟨pending, ofExcept_next run⟩
  case isFalse skipped => exact .inr ⟨Bool.eq_false_iff.2 skipped, (Host.Outcome.next.inj run).symm⟩

/-- Every step that gives a next state has one of the effects. -/
theorem stepEffect_of_step (he : step s = .next t) : StepEffect s t := by
  have same := useAgent_same s
  rcases step_cases he with ⟨agent, rfl⟩ | ⟨unhalted, _, turn⟩
  · exact .powerOn agent
  · rcases turn with ⟨block, _⟩ | ⟨agent, w, ws, i, hp, hd, run⟩ | ⟨h, agent, run⟩ | ⟨_, run⟩ | ⟨h, agent, run⟩ | ⟨_, run⟩
    · exact .pass block
    · exact stepEffect_of_command agent hp hd run
    · obtain ⟨hr, enabled, rfl⟩ := exec_timerFire_next run
      obtain ⟨_, _, configured, armed, _⟩ := (timerFireEnabled_iff _).1 enabled
      exact .timer (same.trans (useTick_same _)) unhalted hr.2 agent configured armed
    · obtain rfl := exec_taskBegin_next run
      exact .taskBegin same unhalted
    · obtain ⟨hr, S, pass, member, ⟨pending, cycle⟩ | ⟨skipped, rfl⟩⟩ := exec_taskVisit_next run
      · exact .visit same unhalted hr.2 pass member pending agent cycle
      · exact .skip same unhalted hr.2 pass skipped
    · obtain ⟨done, rfl⟩ := exec_taskEnd_next run
      exact .taskEnd same unhalted done

end Sys2Proof.Machine
end

section
/-! The invariant (10_state.md R31 to R35), taken apart: what it says of one instance, and what it says of everything beside that
instance. An operation on `I[h]` is sound when it keeps the second part and makes the first. -/

namespace Sys2Proof.Machine

variable {s t u : State} {h : Handle} {p : Params} {i j : Inst} {ws : List Word32}

/-! ### The two parts of the invariant -/

/-- What Sound says of everything beside `I[h]`. -/
structure SoundBeside (h : Handle) (s : State) : Prop where
  params : paramsWf s.params
  count : 1 ≤ s.nInst ∧ s.nInst ≤ 256
  insts : ∀ k : Handle, k ≠ h → k.toNat < s.nInst → InstOk s.params s.halted (s.inst k)
  haltClear : s.halted = false → s.haltCause = 0 ∧ s.haltH = 0
  haltSet : s.halted = true → (∃ c, s.haltCause = causeByte c) ∧ s.haltH.toNat < s.nInst
  pass : ∀ S, s.task = .pass S → S.Nodup ∧ ∀ k ∈ S, k.toNat < s.nInst ∧ (k ≠ h → (s.inst k).configured = true)
  wake : ∀ k : Handle, k ≠ h → k.toNat < s.nInst → (s.inst k).pending = true →
    s.wake = true ∨ ∃ S, s.task = .pass S ∧ k ∈ S
  pinsForm : assocWf s.pins
  clockLow : ∀ k : Handle, k ≠ h → k.toNat < s.nInst → (s.inst k).configured = true → (s.inst k).strat = .bitbang →
    s.pinLevel (s.inst k).pinB = some false
  reports : ∀ r ∈ reportsOf s.trace, ReportOk s.nInst s.params r

/-- What Sound says of `I[h]`, and that no masked window is open. -/
structure SoundAt (h : Handle) (s : State) : Prop where
  inst : InstOk s.params s.halted (s.inst h)
  unmasked : s.irqMasked = false
  pass : ∀ S, s.task = .pass S → h ∈ S → (s.inst h).configured = true
  wake : (s.inst h).pending = true → s.wake = true ∨ ∃ S, s.task = .pass S ∧ h ∈ S
  clockLow : (s.inst h).configured = true → (s.inst h).strat = .bitbang → s.pinLevel (s.inst h).pinB = some false

theorem Sound.beside (a : Sound s) (h : Handle) : SoundBeside h s where
  params := a.params
  count := a.count
  insts k _ := a.insts k
  haltClear := a.haltClear
  haltSet := a.haltSet
  pass S hS := ⟨(a.pass S hS).1, fun k hk => ⟨((a.pass S hS).2 k hk).1, fun _ => ((a.pass S hS).2 k hk).2⟩⟩
  wake k _ := a.wake k
  pinsForm := a.pinsForm
  clockLow k _ := a.clockLow k
  reports := a.reports

theorem SoundBeside.sound (a : SoundBeside h s) (b : SoundAt h s) : Sound s where
  params := a.params
  count := a.count
  insts k hk := by
    by_cases same : k = h
    · rw [same]
      exact b.inst
    · exact a.insts k same hk
  unmasked := b.unmasked
  haltClear := a.haltClear
  haltSet := a.haltSet
  pass S hS := by
    obtain ⟨nodup, members⟩ := a.pass S hS
    refine ⟨nodup, fun k hk => ⟨(members k hk).1, ?_⟩⟩
    by_cases same : k = h
    · rw [same] at hk ⊢
      exact b.pass S hS hk
    · exact (members k hk).2 same
  wake k hk hp := by
    by_cases same : k = h
    · rw [same] at hp ⊢
      exact b.wake hp
    · exact a.wake k same hk hp
  pinsForm := a.pinsForm
  clockLow k hk hc hb := by
    by_cases same : k = h
    · rw [same] at hc hb ⊢
      exact b.clockLow hc hb
    · exact a.clockLow k same hk hc hb
  reports := a.reports

/-! ### What keeps the part beside the instance -/

/-- An operation on `I[h]` that drives pins low only, and reports soundly. -/
theorem SoundBeside.step (a : SoundBeside h s) (o : SameOutside h s t) (form : assocWf t.pins)
    (low : ∀ q, t.pinLevel q = s.pinLevel q ∨ t.pinLevel q = some false)
    (reports : ∀ r ∈ reportsOf t.trace, r ∈ reportsOf s.trace ∨ ReportOk s.nInst s.params r) : SoundBeside h t where
  params := by rw [o.params]; exact a.params
  count := by rw [o.nInst]; exact a.count
  insts k hk hn := by
    rw [o.params, o.halted, o.others k hk]
    exact a.insts k hk (o.nInst ▸ hn)
  haltClear := by rw [o.halted, o.haltCause, o.haltH]; exact a.haltClear
  haltSet := by rw [o.halted, o.haltCause, o.haltH, o.nInst]; exact a.haltSet
  pass S hS := by
    obtain ⟨nodup, members⟩ := a.pass S (o.task ▸ hS)
    refine ⟨nodup, fun k hk => ⟨o.nInst ▸ (members k hk).1, fun other => ?_⟩⟩
    rw [o.others k other]
    exact (members k hk).2 other
  wake k hk hn hp := by
    rw [o.wake, o.task]
    exact a.wake k hk (o.nInst ▸ hn) (o.others k hk ▸ hp)
  pinsForm := form
  clockLow k hk hn hc hb := by
    rw [o.others k hk] at hc hb ⊢
    have idle := a.clockLow k hk (o.nInst ▸ hn) hc hb
    rcases low (s.inst k).pinB with same | driven
    · exact same.trans idle
    · exact driven
  reports r hr := by
    rw [o.nInst, o.params]
    rcases reports r hr with old | new
    · exact a.reports r old
    · exact new

/-- An operation on `I[h]` that drives no pin and reports nothing. -/
theorem SoundBeside.quiet (a : SoundBeside h s) (o : SameOutside h s t) (pins : t.pins = s.pins)
    (reports : reportsOf t.trace = reportsOf s.trace) : SoundBeside h t :=
  a.step o (by rw [pins]; exact a.pinsForm) (fun q => .inl (by rw [State.pinLevel, pins, State.pinLevel]))
    (fun r hr => .inl (reports ▸ hr))

theorem InstOk.of_halt (a : InstOk p false i) : InstOk p true i :=
  ⟨a.selector, a.consumer, a.fresh, fun running => Bool.noConfusion running, a.errZero, a.bufForm, a.bufInside, a.usedLe,
    a.records⟩

theorem SoundBeside.raiseFatal (a : SoundBeside h s) (hs : s.halted = false) (hh : h.toNat < s.nInst) (c : FatalCause) :
    SoundBeside h (s.raiseFatal h c) where
  params := a.params
  count := a.count
  insts k hk hn := InstOk.of_halt (hs ▸ a.insts k hk hn)
  haltClear running := Bool.noConfusion running
  haltSet _ := ⟨⟨c, rfl⟩, hh⟩
  pass := a.pass
  wake := a.wake
  pinsForm := a.pinsForm
  clockLow := a.clockLow
  reports := a.reports

theorem SoundBeside.wakeUp (a : SoundBeside h s) : SoundBeside h { s with wake := true } :=
  ⟨a.params, a.count, a.insts, a.haltClear, a.haltSet, a.pass, fun _ _ _ _ => .inl rfl, a.pinsForm, a.clockLow, a.reports⟩

/-- Leaving the pass breaks at most what the invariant says of the instance that leaves it (R234). -/
theorem SoundBeside.leavePass {S : List Handle} (a : SoundBeside h s) (ht : s.task = .pass S) :
    SoundBeside h (leavePass s h) := by
  rw [leavePass_of_pass ht]
  obtain ⟨nodup, members⟩ := a.pass S ht
  refine ⟨a.params, a.count, a.insts, a.haltClear, a.haltSet, fun S' hS' => ?_, fun k hk hn hp => ?_, a.pinsForm, a.clockLow,
    a.reports⟩
  · obtain rfl := Task.pass.inj hS'
    exact ⟨nodup.filter _, fun k hk => members k (List.mem_filter.1 hk).1⟩
  · rcases a.wake k hk hn hp with woken | ⟨S', hS', member⟩
    · exact .inl woken
    · obtain rfl := Task.pass.inj (ht.symm.trans hS')
      exact .inr ⟨_, rfl, List.mem_filter.2 ⟨member, decide_eq_true hk⟩⟩

theorem Sound.of_sameBlock (a : Sound s) (b : SameBlock s t) : Sound t where
  params := by rw [b.params]; exact a.params
  count := by rw [b.nInst]; exact a.count
  insts k hk := by
    rw [b.params, b.halted, b.inst]
    exact a.insts k (b.nInst ▸ hk)
  unmasked := b.irqMasked.trans a.unmasked
  haltClear := by rw [b.halted, b.haltCause, b.haltH]; exact a.haltClear
  haltSet := by rw [b.halted, b.haltCause, b.haltH, b.nInst]; exact a.haltSet
  pass S hS := by
    obtain ⟨nodup, members⟩ := a.pass S (b.task ▸ hS)
    refine ⟨nodup, fun k hk => ?_⟩
    rw [b.nInst, b.inst]
    exact members k hk
  wake k hk hp := by
    rw [b.wake, b.task]
    exact a.wake k (b.nInst ▸ hk) (b.inst k ▸ hp)
  pinsForm := by rw [b.pins]; exact a.pinsForm
  clockLow k hk hc hb := by
    rw [b.inst] at hc hb ⊢
    rw [State.pinLevel, b.pins]
    exact a.clockLow k (b.nInst ▸ hk) hc hb
  reports := by rw [b.trace, b.nInst, b.params]; exact a.reports

/-! ### The three alternatives of R31 -/

theorem PhaseOk.of_armed (a : PhaseOk i) (armed : i.tmrArmed = true) : i.rest ≠ 0 ∧ i.pending = false := by
  rcases a with ⟨_, unarmed, _⟩ | ⟨started, _, idle⟩ | ⟨_, unarmed, _⟩
  · exact Bool.noConfusion (armed.symm.trans unarmed)
  · exact ⟨started, idle⟩
  · exact Bool.noConfusion (armed.symm.trans unarmed)

theorem PhaseOk.of_pending (a : PhaseOk i) (pending : i.pending = true) : i.rest ≠ 0 ∧ i.tmrArmed = false := by
  rcases a with ⟨_, _, idle⟩ | ⟨_, _, idle⟩ | ⟨started, unarmed, _⟩
  · exact Bool.noConfusion (pending.symm.trans idle)
  · exact Bool.noConfusion (pending.symm.trans idle)
  · exact ⟨started, unarmed⟩

theorem phase_of_servicing (started : i.rest ≠ 0) (unarmed : i.tmrArmed = false) : i.phase = .servicing := by
  rw [Inst.phase, if_neg started, if_neg (by rw [unarmed]; exact Bool.noConfusion)]

/-- Only a configured instance runs (R40). -/
theorem InstOk.configured_of_started {halted : Bool} (a : InstOk p halted i) (started : i.rest ≠ 0) :
    i.configured = true := by
  by_contra unconfigured
  exact started (a.fresh (Bool.eq_false_iff.2 unconfigured)).1

/-! ### Power-on reset (R40) -/

theorem InstOk.reset (p : Params) (halted : Bool) : InstOk p halted Inst.reset where
  selector configured := Bool.noConfusion configured
  consumer valid := Bool.noConfusion valid
  fresh _ := ⟨rfl, rfl, rfl, rfl⟩
  phase _ := .inl ⟨rfl, rfl, rfl⟩
  errZero := rfl
  bufForm := List.Pairwise.nil
  bufInside _ hc := absurd hc List.not_mem_nil
  usedLe := Nat.zero_le _
  records := ⟨[], holds_nil rfl, fun _ hw => absurd hw List.not_mem_nil⟩

/-- A block as power-on reset leaves it, with any sound record of what happened before. -/
theorem sound_of_powerOn {n : Nat} (hn : 1 ≤ n ∧ n ≤ 256) (hp : paramsWf p) (port : List Cmd64) (sched : List Agent)
    (env : Env) (trace : List Event) (reports : ∀ r ∈ reportsOf trace, ReportOk n p r) :
    Sound { State.powerOn n p with port := port, sched := sched, env := env, trace := trace } := by
  have nInst := powerOn_nInst n p
  have inst := powerOn_inst n p
  refine ⟨hp, nInst.symm ▸ hn, fun h _ => ?_, rfl, fun _ => ⟨rfl, rfl⟩, fun halted => Bool.noConfusion halted,
    fun S hS => Task.noConfusion hS, fun h _ pending => ?_, List.Pairwise.nil, fun h _ configured => ?_,
    nInst.symm ▸ reports⟩
  · exact (inst h).symm ▸ InstOk.reset p false
  · exact Bool.noConfusion ((congrArg Inst.pending (inst h)).symm.trans pending)
  · exact Bool.noConfusion ((congrArg Inst.configured (inst h)).symm.trans configured)

/-- Settles O53. -/
theorem resetIsSound : Obligations.ResetIsSound := by
  unfold Obligations.ResetIsSound
  have powerOn : ∀ (n : Nat) (p : Params), 1 ≤ n → n ≤ 256 → paramsWf p → Sound (State.powerOn n p) :=
    fun n p h1 h256 hp => sound_of_powerOn ⟨h1, h256⟩ hp [] [] Env.reset [] fun r hr => absurd hr List.not_mem_nil
  exact ⟨powerOn, powerOn 4 exampleParams (by decide) (by decide) (by decide)⟩

theorem Sound.powerOnReset (a : Sound s) : Sound s.powerOnReset :=
  sound_of_powerOn a.count a.params s.port s.sched s.env s.trace a.reports

end Sys2Proof.Machine
end

section
/-! The invariant kept by the host commands and the task's and the timers' events (R233 to R235, R270 to R273). -/

namespace Sys2Proof.Machine

variable {s t : State} {h : Handle} {p : Params} {i : Inst} {st : Strategy} {g : BitVec 3}

/-! ### A halt -/

theorem SoundAt.of_halt (a : Sound s) (hs : s.halted = false) (hh : h.toNat < s.nInst) (c : FatalCause) :
    SoundAt h (s.raiseFatal h c) where
  inst := InstOk.of_halt (hs ▸ a.insts h hh)
  unmasked := a.unmasked
  pass S hS member := ((a.pass S hS).2 h member).2
  wake := a.wake h hh
  clockLow := a.clockLow h hh

theorem Sound.raiseFatal (a : Sound s) (hs : s.halted = false) (hh : h.toNat < s.nInst) (c : FatalCause) :
    Sound (s.raiseFatal h c) :=
  ((a.beside h).raiseFatal hs hh c).sound (SoundAt.of_halt a hs hh c)

/-! ### CONFIGURE -/

theorem storedSelector_ok (legal : selectorIllegal st g = false) :
    (st = .bitbang ∧ selectorLegal (storedSelector st g) = true) ∨ (st = .register ∧ storedSelector st g = 0) := by
  cases st with
  | register => exact .inr ⟨rfl, rfl⟩
  | bitbang =>
    refine .inl ⟨rfl, ?_⟩
    rw [selectorIllegal, decide_eq_true rfl, Bool.true_and, Bool.not_eq_false'] at legal
    exact legal

theorem InstOk.configured (a : InstOk p false i) (legal : selectorIllegal st g = false) (po : Policy) (pinA pinB : PinId) :
    InstOk p false (configuredInst st po g pinA pinB i) where
  selector _ := storedSelector_ok legal
  consumer valid := Bool.noConfusion valid
  fresh unconfigured := Bool.noConfusion unconfigured
  phase _ := .inl ⟨rfl, rfl, rfl⟩
  errZero := rfl
  bufForm := a.bufForm
  bufInside := a.bufInside
  usedLe := Nat.zero_le _
  records := ⟨[], holds_nil rfl, fun _ hw => absurd hw List.not_mem_nil⟩

theorem configureWrites_reports (s : State) (h : Handle) (st : Strategy) (po : Policy) (g : BitVec 3) (a b : PinId) :
    reportsOf (configureWrites s h st po g a b).trace = reportsOf s.trace := by
  cases st with
  | register => rfl
  | bitbang => exact (reportsOf_append _ _).trans (List.append_nil _)

theorem configureWrites_pins_form (form : assocWf s.pins) (po : Policy) (a b : PinId) :
    assocWf (configureWrites s h st po g a b).pins := by
  cases st with
  | register => exact form
  | bitbang => exact assocSet_wf form _ _

theorem configureWrites_pinLevel (s : State) (h : Handle) (st : Strategy) (po : Policy) (g : BitVec 3) (a b q : PinId) :
    (configureWrites s h st po g a b).pinLevel q =
      if st = .bitbang ∧ q = b then some false else s.pinLevel q := by
  cases st with
  | register => rfl
  | bitbang => exact (State.pinLevel_pinWrite _ b q false).trans (if_congr (and_iff_right rfl).symm rfl rfl)

theorem Sound.configure (a : Sound s) (hs : s.halted = false) (idle : s.task = .idle) (hh : h.toNat < s.nInst)
    (legal : selectorIllegal st g = false) (po : Policy) (pinA pinB : PinId) :
    Sound (configureWrites s h st po g pinA pinB) := by
  have frame := configureWrites_outside s h st po g pinA pinB
  have inst := configureWrites_inst hh st po g pinA pinB
  have level := configureWrites_pinLevel s h st po g pinA pinB
  have reports := configureWrites_reports s h st po g pinA pinB
  refine ((a.beside h).step frame (configureWrites_pins_form a.pinsForm po pinA pinB) (fun q => ?_)
    (fun r hr => .inl (reports ▸ hr))).sound ⟨?_, ?_, fun S hS => ?_, fun pending => ?_, fun _ bitbang => ?_⟩
  · rw [level]
    split
    · exact .inr rfl
    · exact .inl rfl
  · rw [frame.params, frame.halted, hs, inst]
    exact (hs ▸ a.insts h hh).configured legal po pinA pinB
  · rw [configureWrites_irqMasked]
    exact a.unmasked
  · exact Task.noConfusion (idle.symm.trans (frame.task.symm.trans hS))
  · rw [inst] at pending
    exact Bool.noConfusion pending
  · rw [inst] at bitbang ⊢
    exact (level pinB).trans (if_pos ⟨bitbang, rfl⟩)

/-! ### ATTACH_CONSUMER -/

theorem InstOk.withConsumer (a : InstOk p false i) (configured : i.configured = true) (variant : i.variantB = true)
    (c : Handle) : InstOk p false (withConsumer c i) :=
  ⟨a.selector, fun _ => ⟨configured, variant⟩, a.fresh, a.phase, a.errZero, a.bufForm, a.bufInside, a.usedLe, a.records⟩

theorem Sound.attach (a : Sound s) (hs : s.halted = false) (hh : h.toNat < s.nInst)
    (configured : (s.inst h).configured = true) (variant : (s.inst h).variantB = true) (c : Handle) :
    Sound (s.modInst h (withConsumer c)) := by
  have frame := (SameOutside.refl h s).modInst (withConsumer c)
  have inst : (s.modInst h (withConsumer c)).inst h = withConsumer c (s.inst h) := State.modInst_inst_same hh
  refine ((a.beside h).quiet frame rfl rfl).sound ⟨?_, a.unmasked, fun S hS member => ?_, ?_, ?_⟩
  · rw [inst]
    exact hs ▸ (hs ▸ a.insts h hh).withConsumer configured variant c
  · rw [inst]
    exact configured
  · rw [inst]
    exact a.wake h hh
  · rw [inst]
    exact a.clockLow h hh

/-! ### START_STOP -/

/-- An instance as a stop or a start leaves it: empty, and in one of the alternatives of R31. -/
theorem InstOk.restarted {j : Inst} (a : InstOk p false i) (configured : i.configured = true) (config : SameConfig i j)
    (valid : j.endstopValid = i.endstopValid) (phase : PhaseOk j) (err : j.err = 0) (buf : j.buf = i.buf)
    (used : j.used = 0) : InstOk p false j := by
  obtain ⟨sameConfigured, strat, policy, gainsel, _, _⟩ := config
  refine ⟨?_, ?_, ?_, fun _ => phase, err, ?_, ?_, ?_, [], holds_nil used, fun _ hw => absurd hw List.not_mem_nil⟩
  · rw [sameConfigured, strat, gainsel]
    exact a.selector
  · rw [valid, sameConfigured, Inst.variantB, strat, policy]
    exact a.consumer
  · rw [sameConfigured, configured]
    exact fun unconfigured => Bool.noConfusion unconfigured
  · rw [buf]
    exact a.bufForm
  · rw [buf]
    exact a.bufInside
  · rw [used]
    exact Nat.zero_le _

theorem startStop_reports (s : State) (h : Handle) (n : Tick) :
    reportsOf (startStop s h n).trace = reportsOf s.trace := by
  by_cases hn : n = 0
  · rw [hn, startStop_trace_zero, reportsOf_append]
    exact List.append_nil _
  · rw [startStop_trace_of_ne s h hn, reportsOf_append]
    exact List.append_nil _

theorem startStop_config (hh : h.toNat < s.nInst) (n : Tick) : SameConfig (s.inst h) ((startStop s h n).inst h) := by
  by_cases hn : n = 0
  · rw [hn, startStop_inst_zero hh]
    exact ⟨rfl, rfl, rfl, rfl, rfl, rfl⟩
  · rw [startStop_inst_of_ne hh hn]
    exact ⟨rfl, rfl, rfl, rfl, rfl, rfl⟩

theorem startStop_instOk (a : InstOk p false (s.inst h)) (hh : h.toNat < s.nInst)
    (configured : (s.inst h).configured = true) (n : Tick) : InstOk p false ((startStop s h n).inst h) := by
  have config := startStop_config hh n
  by_cases hn : n = 0
  · rw [hn, startStop_inst_zero hh] at config ⊢
    exact a.restarted configured config rfl (.inl ⟨rfl, rfl, rfl⟩) rfl rfl rfl
  · rw [startStop_inst_of_ne hh hn] at config ⊢
    exact a.restarted configured config rfl (.inr (.inl ⟨hn, rfl, rfl⟩)) rfl rfl rfl

theorem startStop_pending (hh : h.toNat < s.nInst) (n : Tick) : ((startStop s h n).inst h).pending = false := by
  by_cases hn : n = 0
  · rw [hn, startStop_inst_zero hh]
  · rw [startStop_inst_of_ne hh hn]

theorem Sound.startStop (a : Sound s) (hs : s.halted = false) (hh : h.toNat < s.nInst)
    (configured : (s.inst h).configured = true) (n : Tick) : Sound (startStop s h n) := by
  have frame := startStop_outside s h n
  obtain ⟨sameConfigured, strat, _, _, _, pinB⟩ := startStop_config hh n
  refine ((a.beside h).quiet frame (startStop_pins s h n) (startStop_reports s h n)).sound
    ⟨?_, startStop_irqMasked s h n, fun S _ _ => sameConfigured.trans configured, fun pending => ?_, ?_⟩
  · rw [frame.params, frame.halted, hs]
    exact startStop_instOk (hs ▸ a.insts h hh) hh configured n
  · exact Bool.noConfusion ((startStop_pending hh n).symm.trans pending)
  · rw [sameConfigured, strat, pinB, State.pinLevel, startStop_pins]
    exact a.clockLow h hh

/-! ### STATUS_QUERY -/

theorem Sound.statusQuery (a : Sound s) (hh : h.toNat < s.nInst) : Sound (statusQuery s h) := by
  have frame := statusQuery_outside s h
  have inst := statusQuery_inst s h h
  have reports : reportsOf (Machine.statusQuery s h).trace = reportsOf s.trace := by
    rw [statusQuery_trace, reportsOf_append]
    exact List.append_nil _
  refine ((a.beside h).quiet frame (statusQuery_pins s h) reports).sound
    ⟨?_, statusQuery_irqMasked s h, fun S hS member => ?_, ?_, ?_⟩
  · rw [frame.params, frame.halted, inst]
    exact a.insts h hh
  · rw [inst]
    exact ((a.pass S (frame.task ▸ hS)).2 h member).2
  · rw [inst, frame.wake, frame.task]
    exact a.wake h hh
  · rw [inst, State.pinLevel, statusQuery_pins]
    exact a.clockLow h hh

/-! ### TIMER_FIRE -/

theorem InstOk.fired (a : InstOk p false i) (configured : i.configured = true) (armed : i.tmrArmed = true) :
    InstOk p false { i with tmrArmed := false, pending := true } := by
  obtain ⟨started, _⟩ := (a.phase rfl).of_armed armed
  exact ⟨a.selector, a.consumer, fun unconfigured => Bool.noConfusion (configured.symm.trans unconfigured),
    fun _ => .inr (.inr ⟨started, rfl, rfl⟩), a.errZero, a.bufForm, a.bufInside, a.usedLe, a.records⟩

theorem Sound.timerFire (a : Sound s) (hs : s.halted = false) (hh : h.toNat < s.nInst)
    (configured : (s.inst h).configured = true) (armed : (s.inst h).tmrArmed = true) : Sound (timerFire s h) := by
  have inst := timerFire_inst hh
  refine ((a.beside h).wakeUp.quiet (timerFire_outside s h) rfl rfl).sound
    ⟨?_, a.unmasked, fun S _ _ => ?_, fun _ => .inl rfl, ?_⟩
  · rw [inst, show (Machine.timerFire s h).halted = false from hs]
    exact (hs ▸ a.insts h hh).fired configured armed
  · rw [inst]
    exact configured
  · rw [inst]
    exact a.clockLow h hh

/-! ### The task's events -/

/-- The pass that begins takes up every configured instance, so it takes up every pending one (R73, R233). -/
theorem Sound.taskBegin (a : Sound s) : Sound (taskBegin s) := by
  have reports : reportsOf (s.trace ++ [.irqMask, .irqUnmask]) = reportsOf s.trace :=
    (reportsOf_append _ _).trans (List.append_nil _)
  rw [taskBegin_eq]
  refine ⟨a.params, a.count, a.insts, rfl, a.haltClear, a.haltSet, fun S hS => ?_, fun h hh pending => ?_, a.pinsForm,
    a.clockLow, ?_⟩
  · obtain rfl := Task.pass.inj hS
    exact ⟨configuredHandles_nodup a.count.2, fun h => (mem_configuredHandles a.count.2).1⟩
  · refine .inr ⟨_, rfl, (mem_configuredHandles a.count.2).2 ⟨hh, ?_⟩⟩
    by_contra unconfigured
    obtain ⟨_, _, idle, _⟩ := (a.insts h hh).fresh (Bool.eq_false_iff.2 unconfigured)
    exact Bool.noConfusion (idle.symm.trans pending)
  · intro r hr
    exact a.reports r (reports ▸ hr)

/-- A pass that ends has no instance left to visit, so a pending one has woken the task again. -/
theorem Sound.taskEnd (a : Sound s) (done : s.task = .pass []) : Sound { s with task := .idle } := by
  refine ⟨a.params, a.count, a.insts, a.unmasked, a.haltClear, a.haltSet, fun S hS => Task.noConfusion hS,
    fun h hh pending => ?_, a.pinsForm, a.clockLow, a.reports⟩
  rcases a.wake h hh pending with woken | ⟨S, hS, member⟩
  · exact .inl woken
  · obtain rfl := Task.pass.inj (done.symm.trans hS)
    exact absurd member List.not_mem_nil

theorem Sound.skip {S : List Handle} (a : Sound s) (hh : h.toNat < s.nInst) (ht : s.task = .pass S)
    (skipped : (s.inst h).pending = false) : Sound (leavePass s h) := by
  refine ((a.beside h).leavePass ht).sound ?_
  rw [leavePass_of_pass ht]
  refine ⟨a.insts h hh, a.unmasked, fun S' hS' member => ?_, fun pending => ?_, a.clockLow h hh⟩
  · obtain rfl := Task.pass.inj hS'
    exact absurd rfl (of_decide_eq_true (List.mem_filter.1 member).2)
  · exact Bool.noConfusion (skipped.symm.trans pending)

end Sys2Proof.Machine
end

section
/-! The cycle between its poll and its end, for the invariant (R31 to R35, R214): what it keeps of the instance and of the rest, and
that its reports are sound. -/

namespace Sys2Proof.Machine

variable {s t : State} {h : Handle} {p : Params} {i j : Inst} {ws : List Word32} {c : ErrorCode}

/-! ### The fields that no cycle writes -/

/-- The configuration, the consumer and the interval agree. -/
structure SameSetup (i j : Inst) : Prop where
  config : SameConfig i j
  valid : j.endstopValid = i.endstopValid
  rest : j.rest = i.rest

theorem SameConfig.refl (i : Inst) : SameConfig i i := ⟨rfl, rfl, rfl, rfl, rfl, rfl⟩

theorem measured_setup (hh : h.toNat < s.nInst) : SameSetup (s.inst h) ((measured s h).inst h) := by
  obtain ⟨ts, td, ac, ra, inst⟩ := measured_inst hh
  rw [inst]
  exact ⟨SameConfig.refl _, rfl, rfl⟩

theorem judged_setup (hh : h.toNat < s.nInst) : SameSetup (s.inst h) ((judged s h).inst h) := by
  obtain ⟨config, valid, rest⟩ := measured_setup hh
  rw [judged_inst_eq hh]
  split
  · exact ⟨config, valid, rest⟩
  · exact ⟨config, valid, rest⟩

theorem judged_timer (hh : h.toNat < s.nInst) :
    ((judged s h).inst h).pending = false ∧ ((judged s h).inst h).tmrArmed = (s.inst h).tmrArmed := by
  obtain ⟨ts, td, ac, ra, inst⟩ := measured_inst hh
  rw [judged_inst_eq hh, inst]
  split
  · exact ⟨rfl, rfl⟩
  · exact ⟨rfl, rfl⟩

theorem CycleEnd.setup {m : Memory} {used : Nat} {err : Byte} {es : List Event}
    (a : CycleEnd h (judged s h) t m used err es) (hh : h.toNat < s.nInst) : SameSetup (s.inst h) (t.inst h) := by
  have setup := judged_setup hh
  rw [a.inst]
  generalize (judged s h).inst h = j at setup ⊢
  exact ⟨setup.config, setup.valid, setup.rest⟩

theorem CycleEnd.timer {m : Memory} {used : Nat} {err : Byte} {es : List Event}
    (a : CycleEnd h (judged s h) t m used err es) (hh : h.toNat < s.nInst) :
    (t.inst h).pending = false ∧ (t.inst h).tmrArmed = true := by
  rw [a.inst]
  exact ⟨(judged_timer hh).1, rfl⟩

/-! ### The transfer's effect on the pins and the record -/

theorem measured_reports (hh : h.toNat < s.nInst) : reportsOf (measured s h).trace = reportsOf s.trace := by
  have hp : h.toNat < (polled s h).nInst := by rwa [(polled_outside s h).nInst]
  have poll : reportsOf (polled s h).trace = reportsOf s.trace := by
    rw [polled_trace hh, reportsOf_append]
    exact List.append_nil _
  exact (transfer_measure hp).reports.trans poll

theorem judged_reports (hh : h.toNat < s.nInst) : reportsOf (judged s h).trace = reportsOf s.trace := by
  rw [judged_trace, measured_reports hh]

theorem CycleEnd.reports {m : Memory} {used : Nat} {err : Byte} {es : List Event}
    (a : CycleEnd h (judged s h) t m used err es) (hh : h.toNat < s.nInst) :
    reportsOf t.trace = reportsOf s.trace ++ reportsOf es := by
  rw [a.trace, reportsOf_append, reportsOf_append, judged_reports hh]
  exact List.append_nil _

theorem measured_irqMasked (hh : h.toNat < s.nInst) : (measured s h).irqMasked = false := by
  have hp : h.toNat < (polled s h).nInst := by rwa [(polled_outside s h).nInst]
  exact (transfer_measure hp).irqMasked

theorem judged_pins_form (hh : h.toNat < s.nInst) (form : assocWf s.pins) : assocWf (judged s h).pins := by
  have hp : h.toNat < (polled s h).nInst := by rwa [(polled_outside s h).nInst]
  rw [judged_pins]
  exact (transfer_measure hp).pinsForm form

/-- The transfer leaves every pin as it was, or low. -/
theorem judged_pinLevel (hh : h.toNat < s.nInst) (q : PinId) :
    (judged s h).pinLevel q = s.pinLevel q ∨ (judged s h).pinLevel q = some false := by
  have hp : h.toNat < (polled s h).nInst := by rwa [(polled_outside s h).nInst]
  rw [State.pinLevel, judged_pins]
  rcases (transfer_measure hp).pins q with same | ⟨_, _, driven⟩
  · exact .inl same
  · exact .inr driven

/-! ### Sound reports (R100, R214) -/

/-- The buffer space fits the LEN field of a report (R9, R100). -/
theorem capBytes_le (hp : paramsWf p) : capBytes p ≤ 32768 := by
  obtain ⟨_, _, _, cap⟩ := hp
  have slots : 2 ^ p.capLog2 ≤ 2 ^ 13 := Nat.pow_le_pow_right (by decide) cap
  rw [capBytes_eq, capSlots]
  omega

theorem len_toNat (hp : paramsWf p) {n : Nat} (hn : n ≤ capBytes p) : (BitVec.ofNat 16 n).toNat = n := by
  have cap := capBytes_le hp
  rw [BitVec.toNat_ofNat, Nat.mod_eq_of_lt (by omega)]

/-- The report of a full buffer (R191 b). -/
theorem fullReport_ok (hp : paramsWf s.params) (hh : h.toNat < s.nInst) (full : (s.inst h).used = capBytes s.params)
    (err : (s.inst h).err = 0) (hw : Holds (s.inst h) ws) (counts : ∀ w ∈ ws, IsCount w) :
    ReportOk s.nInst s.params (reportFrame s h (recordBytes ws)) := by
  have len : (reportFrame s h (recordBytes ws)).len.toNat = capBytes s.params := by
    rw [reportFrame, len_toNat hp full.le, full]
  refine ⟨hh, ?_, ?_, len.le, .inl ⟨err, len, ws, rfl, counts⟩⟩
  · rw [len, reportFrame_data, recordBytes_length, ← full, hw.1, recBytes]
  · rw [len]
    exact capBytes_pos s.params

/-- The frame of an error record's report: the records held, then the sentinel (R214). -/
def errorFrame (h : Handle) (c : ErrorCode) (used : Nat) (ws : List Word32) : Report where
  h := h
  err := errorByte c
  len := BitVec.ofNat 16 used
  data := recordBytes (ws ++ [sentinel])

/-- The report of an error record is sound (R214 c). -/
theorem errorFrame_ok {n : Nat} (hp : paramsWf p) (hh : h.toNat < n) (c : ErrorCode) (counts : ∀ w ∈ ws, IsCount w) {used : Nat}
    (whole : used = 4 * (ws ++ [sentinel]).length) (fits : used ≤ capBytes p) :
    ReportOk n p (errorFrame h c used ws) := by
  have len : (errorFrame h c used ws).len.toNat = used := len_toNat hp fits
  refine ⟨hh, ?_, ?_, len.le.trans fits, .inr ⟨⟨c, rfl⟩, ws, rfl, counts⟩⟩
  · rw [len, errorFrame, recordBytes_length, whole]
  · rw [len, whole, List.length_append, List.length_singleton, recBytes]
    omega

/-! ### The instance after a cycle -/

/-- A store inside the buffer space keeps the form of the memory (R60, R61). -/
theorem InstOk.store {halted : Bool} (a : InstOk p halted i) {x : Nat} {w : Word32} (inside : x + 4 ≤ capBytes p) :
    Memory.wf (writeBytes i.buf x (encodeRec w)) ∧ ∀ cell ∈ writeBytes i.buf x (encodeRec w), cell.1 < capBytes p := by
  refine ⟨writeBytes_wf a.bufForm _ _, fun cell member => ?_⟩
  rcases mem_writeBytes member with old | ⟨_, high⟩
  · exact a.bufInside cell old
  · rw [encodeRec_length] at high
    omega

/-- A pending instance after its cycle: armed again, its buffer in order. -/
theorem InstOk.cycled (a : InstOk p false i) (pending : i.pending = true) (setup : SameSetup i j)
    (timer : j.pending = false ∧ j.tmrArmed = true) (err : j.err = 0)
    (form : Memory.wf j.buf ∧ ∀ cell ∈ j.buf, cell.1 < capBytes p) (fits : j.used ≤ capBytes p)
    (records : ∃ ws, Holds j ws ∧ ∀ w ∈ ws, IsCount w) : InstOk p false j := by
  obtain ⟨started, _⟩ := (a.phase rfl).of_pending pending
  have configured := a.configured_of_started started
  obtain ⟨⟨sameConfigured, strat, policy, gainsel, _, _⟩, valid, rest⟩ := setup
  refine ⟨?_, ?_, ?_, fun _ => .inr (.inl ⟨rest ▸ started, timer.2, timer.1⟩), err, form.1, form.2, fits, records⟩
  · rw [sameConfigured, strat, gainsel]
    exact a.selector
  · rw [valid, sameConfigured, Inst.variantB, strat, policy]
    exact a.consumer
  · rw [sameConfigured, configured]
    exact fun unconfigured => Bool.noConfusion unconfigured

/-- A pending instance after a cycle that halted the block. -/
theorem InstOk.stopped (a : InstOk p false i) (pending : i.pending = true) (setup : SameSetup i j)
    (buffer : j.buf = i.buf ∧ j.used = i.used ∧ j.err = i.err) : InstOk p true j := by
  obtain ⟨started, _⟩ := (a.phase rfl).of_pending pending
  have configured := a.configured_of_started started
  obtain ⟨⟨sameConfigured, strat, policy, gainsel, _, _⟩, valid, rest⟩ := setup
  obtain ⟨buf, used, err⟩ := buffer
  obtain ⟨ws, hw, counts⟩ := a.records
  refine ⟨?_, ?_, ?_, fun running => Bool.noConfusion running, err.trans a.errZero, ?_, ?_, ?_, ws,
    hw.of_buffer buf used, counts⟩
  · rw [sameConfigured, strat, gainsel]
    exact a.selector
  · rw [valid, sameConfigured, Inst.variantB, strat, policy]
    exact a.consumer
  · rw [sameConfigured, configured]
    exact fun unconfigured => Bool.noConfusion unconfigured
  · rw [buf]
    exact a.bufForm
  · rw [buf]
    exact a.bufInside
  · rw [used]
    exact a.usedLe

/-! ### A cycle keeps the invariant -/

/-- What a cycle finds: an unhalted block, sound but for the pass that `h` may have left, and a sound pending instance. -/
structure CycleDue (h : Handle) (s : State) : Prop where
  beside : SoundBeside h s
  unhalted : s.halted = false
  inRange : h.toNat < s.nInst
  inst : InstOk s.params false (s.inst h)
  pending : (s.inst h).pending = true
  clockLow : (s.inst h).strat = .bitbang → s.pinLevel (s.inst h).pinB = some false

theorem CycleDue.configured (d : CycleDue h s) : (s.inst h).configured = true :=
  d.inst.configured_of_started ((d.inst.phase rfl).of_pending d.pending).1

theorem CycleDue.space (d : CycleDue h s) (hw : Holds (s.inst h) ws) :
    (s.inst h).used + 4 ≤ capBytes s.params ∨ (s.inst h).used = capBytes s.params := by
  refine room_or_full hw ?_
  have le := d.inst.usedLe
  rw [hw.1, capBytes_eq, recBytes] at le
  omega

theorem CycleDue.judged_beside (d : CycleDue h s) : SoundBeside h (judged s h) :=
  d.beside.step (judged_outside d.inRange) (judged_pins_form d.inRange d.beside.pinsForm) (judged_pinLevel d.inRange)
    fun _ hr => .inl (judged_reports d.inRange ▸ hr)

/-- The instance's part of the invariant after any end of the cycle that leaves the pins as the transfer did. -/
theorem CycleDue.soundAt (d : CycleDue h s) (setup : SameSetup (s.inst h) (t.inst h)) (idle : (t.inst h).pending = false)
    (pins : t.pins = (judged s h).pins) (mask : t.irqMasked = false) (inst : InstOk t.params t.halted (t.inst h)) :
    SoundAt h t := by
  obtain ⟨⟨configured, strat, _, _, _, pinB⟩, _, _⟩ := setup
  refine ⟨inst, mask, fun S _ _ => configured.trans d.configured, fun pending => ?_, fun _ bitbang => ?_⟩
  · exact Bool.noConfusion (idle.symm.trans pending)
  · have level : t.pinLevel (s.inst h).pinB = (judged s h).pinLevel (s.inst h).pinB := by
      rw [State.pinLevel, pins, State.pinLevel]
    rw [pinB, level]
    rcases judged_pinLevel d.inRange (s.inst h).pinB with same | low
    · exact same.trans (d.clockLow (strat.symm.trans bitbang))
    · exact low

/-- A completed cycle whose buffer and reports are sound. -/
theorem CycleDue.sound_of_end (d : CycleDue h s) {m : Memory} {used : Nat} {es : List Event}
    (a : CycleEnd h (judged s h) t m used 0 es) (form : Memory.wf m ∧ ∀ cell ∈ m, cell.1 < capBytes s.params)
    (fits : used ≤ capBytes s.params) (records : ∃ ws, Holds (t.inst h) ws ∧ ∀ w ∈ ws, IsCount w)
    (reports : ∀ r ∈ reportsOf es, ReportOk s.nInst s.params r) : Sound t := by
  have outside := a.outside_of_judged d.inRange
  have setup := a.setup d.inRange
  have timer := a.timer d.inRange
  have inst : InstOk t.params t.halted (t.inst h) := by
    rw [outside.params, outside.halted, d.unhalted]
    exact d.inst.cycled d.pending setup timer (by rw [a.inst]) (by rw [a.inst]; exact form) (by rw [a.inst]; exact fits)
      records
  refine (d.beside.step outside ?_ (fun q => ?_) fun r hr => ?_).sound (d.soundAt setup timer.1 a.pins a.irqMasked inst)
  · rw [a.pins]
    exact judged_pins_form d.inRange d.beside.pinsForm
  · rw [State.pinLevel, a.pins]
    exact judged_pinLevel d.inRange q
  · rw [a.reports d.inRange] at hr
    exact (List.mem_append.1 hr).imp_right (reports r)

theorem deferral_reports (hh : h.toNat < s.nInst) : reportsOf (timerArm (polled s h) h).trace = reportsOf s.trace := by
  rw [deferral_trace hh, reportsOf_append]
  exact List.append_nil _

/-- Where the converter is not ready: the poll, and the timer armed again. -/
theorem CycleDue.sound_of_deferral (d : CycleDue h s) : Sound (timerArm (polled s h) h) := by
  have outside := deferral_outside s h
  have inst := deferral_inst d.inRange
  have reports := deferral_reports d.inRange
  obtain ⟨ws, hw, counts⟩ := d.inst.records
  refine (d.beside.quiet outside rfl reports).sound ⟨?_, rfl, fun S _ _ => ?_, fun pending => ?_, fun _ bitbang => ?_⟩
  · rw [outside.params, outside.halted, d.unhalted, inst]
    exact d.inst.cycled d.pending ⟨SameConfig.refl _, rfl, rfl⟩ ⟨rfl, rfl⟩ d.inst.errZero ⟨d.inst.bufForm, d.inst.bufInside⟩
      d.inst.usedLe ⟨ws, hw.of_buffer rfl rfl, counts⟩
  · rw [inst]
    exact d.configured
  · rw [inst] at pending
    exact Bool.noConfusion pending
  · rw [inst] at bitbang ⊢
    exact d.clockLow bitbang

theorem CycleDue.sound_of_sample (d : CycleDue h s) (low : s.nextLevel (s.inst h).pinA = false)
    (hv : cycleVerdict s h = .sample) : ∃ t, service s h = .ok t ∧ Sound t := by
  obtain ⟨ws, hw, counts⟩ := d.inst.records
  have count : IsCount (decodeCount ((measured s h).inst h).acc) := decodeCount_isCount _
  rcases d.space hw with room | full
  · obtain ⟨t, ht, a⟩ := service_sample_room d.inRange low hv room
    rw [d.inst.errZero] at a
    have held : Holds (t.inst h) (ws ++ [decodeCount ((measured s h).inst h).acc]) :=
      holds_append hw (by rw [a.inst]) (by rw [a.inst])
    refine ⟨t, ht, d.sound_of_end a (d.inst.store room) room ⟨_, held, fun w hmem => ?_⟩ fun r hr => ?_⟩
    · rcases List.mem_append.1 hmem with old | new
      · exact counts w old
      · exact List.mem_singleton.1 new ▸ count
    · rw [reportsOf_delivery] at hr
      exact absurd hr List.not_mem_nil
  · obtain ⟨t, ht, a⟩ := service_sample_full d.inRange low hv full hw
    rw [d.inst.errZero] at a
    have held : Holds (t.inst h) [decodeCount ((measured s h).inst h).acc] :=
      holds_single (i := s.inst h) (by rw [a.inst]) (by rw [a.inst])
    have cap := capBytes_pos s.params
    refine ⟨t, ht, d.sound_of_end a (d.inst.store (by omega)) cap ⟨_, held, fun w hmem => ?_⟩ fun r hr => ?_⟩
    · exact List.mem_singleton.1 hmem ▸ count
    · rw [reportsOf_append, reportsOf_delivery, List.nil_append] at hr
      obtain rfl : r = reportFrame s h (recordBytes ws) := List.mem_singleton.1 hr
      exact fullReport_ok d.beside.params d.inRange full d.inst.errZero hw counts

theorem CycleDue.sound_of_error (d : CycleDue h s) (low : s.nextLevel (s.inst h).pinA = false)
    (hv : cycleVerdict s h = .recoverable c) : ∃ t, service s h = .ok t ∧ Sound t := by
  obtain ⟨ws, hw, counts⟩ := d.inst.records
  have whole : (s.inst h).used + 4 = 4 * (ws ++ [sentinel]).length := by
    rw [hw.1, recBytes, List.length_append, List.length_singleton]
    omega
  rcases d.space hw with room | full
  · obtain ⟨t, ht, a⟩ := service_error_room d.inRange low hv room hw
    have held : Holds (t.inst h) [] := holds_nil (by rw [a.inst])
    refine ⟨t, ht, d.sound_of_end a (d.inst.store room) (Nat.zero_le _) ⟨_, held, fun _ hmem => absurd hmem List.not_mem_nil⟩
      fun r hr => ?_⟩
    obtain rfl := List.mem_singleton.1 hr
    exact errorFrame_ok d.beside.params d.inRange c counts whole room
  · obtain ⟨t, ht, a⟩ := service_error_full d.inRange low hv full hw
    have held : Holds (t.inst h) [] := holds_nil (by rw [a.inst])
    have cap := capBytes_pos s.params
    refine ⟨t, ht, d.sound_of_end a (d.inst.store (by omega)) (Nat.zero_le _)
      ⟨_, held, fun _ hmem => absurd hmem List.not_mem_nil⟩ fun r hr => ?_⟩
    rcases List.mem_cons.1 hr with rfl | lone
    · exact fullReport_ok d.beside.params d.inRange full d.inst.errZero hw counts
    · obtain rfl := List.mem_singleton.1 lone
      exact errorFrame_ok (ws := []) d.beside.params d.inRange c (fun _ hmem => absurd hmem List.not_mem_nil) rfl cap

theorem CycleDue.sound_of_halt (d : CycleDue h s) (cause : FatalCause) : Sound ((judged s h).raiseFatal h cause) := by
  have outside := judged_outside d.inRange
  have setup := judged_setup d.inRange
  refine (d.judged_beside.raiseFatal (outside.halted.trans d.unhalted) (judged_inRange d.inRange) cause).sound
    (d.soundAt ?_ ?_ (State.raiseFatal_pins _ h cause) ?_ ?_)
  · rw [State.raiseFatal_inst]
    exact setup
  · rw [State.raiseFatal_inst]
    exact (judged_timer d.inRange).1
  · rw [State.raiseFatal_irqMasked, judged_irqMasked]
    exact measured_irqMasked d.inRange
  · rw [State.raiseFatal_params, State.raiseFatal_halted, State.raiseFatal_inst, outside.params]
    exact d.inst.stopped d.pending setup (judged_buffer d.inRange)

/-- A cycle completes, and leaves the block sound (R240 a). -/
theorem CycleDue.service_sound (d : CycleDue h s) : ∃ t, service s h = .ok t ∧ Sound t := by
  cases level : s.nextLevel (s.inst h).pinA with
  | true => exact ⟨_, service_of_high d.inRange level, d.sound_of_deferral⟩
  | false =>
    cases verdict : cycleVerdict s h with
    | sample => exact d.sound_of_sample level verdict
    | recoverable c => exact d.sound_of_error level verdict
    | fatal cause => exact ⟨_, service_fatal d.inRange level verdict, d.sound_of_halt cause⟩

/-! ### The step -/

/-- The cycle that a visit runs. -/
theorem Sound.cycleDue {S : List Handle} (a : Sound s) (hs : s.halted = false) (hh : h.toNat < s.nInst) (ht : s.task = .pass S)
    (member : h ∈ S) (pending : (s.inst h).pending = true) : CycleDue h (leavePass s h) := by
  have beside := (a.beside h).leavePass ht
  rw [leavePass_of_pass ht] at beside ⊢
  exact ⟨beside, hs, hh, hs ▸ a.insts h hh, pending, a.clockLow h hh ((a.pass S ht).2 h member).2⟩

/-- Settles O52: every effect of a step keeps the invariant. -/
theorem stepKeepsSound : Obligations.StepKeepsSound := by
  unfold Obligations.StepKeepsSound
  intro s t a ht
  cases stepEffect_of_step ht with
  | powerOn _ => exact (a.of_sameBlock (useAgent_same s)).powerOnReset
  | pass same => exact a.of_sameBlock same
  | configureHalt same hs _ hh => exact (a.of_sameBlock same).raiseFatal (same.halted.trans hs) hh _
  | configure same hs idle hh _ legal => exact (a.of_sameBlock same).configure (same.halted.trans hs) idle hh legal _ _ _
  | attach same hs _ hh configured variant =>
    exact (a.of_sameBlock same).attach (same.halted.trans hs) hh configured variant _
  | startStop same hs _ hh configured => exact (a.of_sameBlock same).startStop (same.halted.trans hs) hh configured _
  | statusQuery same _ hh => exact (a.of_sameBlock same).statusQuery hh
  | timer same hs hh _ configured armed => exact (a.of_sameBlock same).timerFire (same.halted.trans hs) hh configured armed
  | taskBegin same _ => exact (a.of_sameBlock same).taskBegin
  | skip same _ hh pass skipped => exact (a.of_sameBlock same).skip hh pass skipped
  | visit same hs hh pass member pending _ cycle =>
    obtain ⟨t', ht', sound⟩ := ((a.of_sameBlock same).cycleDue (same.halted.trans hs) hh pass member pending).service_sound
    obtain rfl := Except.ok.inj (ht'.symm.trans cycle)
    exact sound
  | taskEnd same _ done => exact (a.of_sameBlock same).taskEnd done

end Sys2Proof.Machine
end

section
/-! The four outcomes of a cycle (45_cycle_scheduler.md R240 a, R33), and the phases that a step can change (R245). -/

namespace Sys2Proof.Machine

variable {s t u : State} {h k : Handle} {ws : List Word32}

/-! ### The outcomes -/

/-- The cycle found the converter not ready. -/
def CycleDeferred (h : Handle) (s t : State) (ws : List Word32) : Prop :=
  t.halted = false ∧ (t.inst h).phase = .armed ∧ s.nextLevel (s.inst h).pinA = true ∧ Holds (t.inst h) ws ∧
    reportsOf t.trace = reportsOf s.trace

/-- The cycle took a sample and appended its count. -/
def CycleSampled (h : Handle) (s t : State) (ws : List Word32) : Prop :=
  t.halted = false ∧ (t.inst h).phase = .armed ∧ s.nextLevel (s.inst h).pinA = false ∧
    classifyVerdict s.params (t.inst h) = .sample ∧ IsCount (decodeCount (t.inst h).acc) ∧
    (((s.inst h).used + 4 ≤ capBytes s.params ∧ Holds (t.inst h) (ws ++ [decodeCount (t.inst h).acc]) ∧
        reportsOf t.trace = reportsOf s.trace) ∨
      ((s.inst h).used = capBytes s.params ∧ Holds (t.inst h) [decodeCount (t.inst h).acc] ∧
        ∃ r : Report, reportsOf t.trace = reportsOf s.trace ++ [r] ∧ r.h = h ∧ r.err = 0 ∧ r.data = recordBytes ws))

/-- The cycle reported one error record. -/
def CycleFailed (h : Handle) (s t : State) (ws : List Word32) : Prop :=
  t.halted = false ∧ (t.inst h).phase = .armed ∧ s.nextLevel (s.inst h).pinA = false ∧ Holds (t.inst h) [] ∧
    ∃ (c : ErrorCode) (rs : List Report) (r : Report), classifyVerdict s.params (t.inst h) = .recoverable c ∧
      reportsOf t.trace = reportsOf s.trace ++ rs ++ [r] ∧ r.h = h ∧
      r.err.toNat =
        (match c with
        | .transferTooLong => 1
        | .outOfRange => 2
        | .readyAfterRead => 3) ∧
      (((s.inst h).used + 4 ≤ capBytes s.params ∧ rs = [] ∧ r.data = recordBytes (ws ++ [sentinel])) ∨
        ((s.inst h).used = capBytes s.params ∧ r.data = recordBytes [sentinel] ∧
          ∃ q : Report, rs = [q] ∧ q.h = h ∧ q.err = 0 ∧ q.data = recordBytes ws))

/-- The cycle halted the block. -/
def CycleHalted (h : Handle) (s t : State) (ws : List Word32) : Prop :=
  t.halted = true ∧ (t.inst h).phase = .servicing ∧ s.nextLevel (s.inst h).pinA = false ∧ Holds (t.inst h) ws ∧
    reportsOf t.trace = reportsOf s.trace ∧ t.haltH = h ∧
    ∃ c, classifyVerdict s.params (t.inst h) = .fatal c ∧
      t.haltCause.toNat =
        match c with
        | .configSelector => 1
        | .allOnes => 2
        | .outOfRange => 3
        | .readyAfterRead => 4

/-! ### The verdict stands in the instance after the cycle -/

/-- CLASSIFY and what follows it leave the registers that the verdict reads. -/
theorem judged_verdict (hh : h.toNat < s.nInst) : classifyVerdict s.params ((judged s h).inst h) = cycleVerdict s h := by
  rw [judged_inst_eq hh, cycleVerdict]
  split
  · exact classifyVerdict_congr _ rfl rfl rfl rfl rfl
  · rfl

theorem judged_acc (hh : h.toNat < s.nInst) : ((judged s h).inst h).acc = ((measured s h).inst h).acc := by
  rw [judged_inst_eq hh]
  split
  · rfl
  · rfl

theorem CycleEnd.verdict {m : Memory} {used : Nat} {err : Byte} {es : List Event}
    (a : CycleEnd h (judged s h) t m used err es) (hh : h.toNat < s.nInst) :
    classifyVerdict s.params (t.inst h) = cycleVerdict s h := by
  rw [← judged_verdict hh, a.inst]
  exact classifyVerdict_congr _ rfl rfl rfl rfl rfl

theorem CycleEnd.acc {m : Memory} {used : Nat} {err : Byte} {es : List Event}
    (a : CycleEnd h (judged s h) t m used err es) (hh : h.toNat < s.nInst) :
    (t.inst h).acc = ((measured s h).inst h).acc := by
  rw [← judged_acc hh, a.inst]

theorem errorByte_toNat (c : ErrorCode) :
    (errorByte c).toNat =
      match c with
      | .transferTooLong => 1
      | .outOfRange => 2
      | .readyAfterRead => 3 := by
  cases c with
  | transferTooLong => rfl
  | outOfRange => rfl
  | readyAfterRead => rfl

/-! ### Each outcome of a cycle that is due -/

theorem CycleDue.started (d : CycleDue h s) : (s.inst h).rest ≠ 0 ∧ (s.inst h).tmrArmed = false :=
  (d.inst.phase rfl).of_pending d.pending

/-- A completed cycle leaves an unhalted block and an armed timer. -/
theorem CycleDue.armed_of_end (d : CycleDue h s) {m : Memory} {used : Nat} {err : Byte} {es : List Event}
    (a : CycleEnd h (judged s h) t m used err es) : t.halted = false ∧ (t.inst h).phase = .armed := by
  have setup := a.setup d.inRange
  exact ⟨(a.outside_of_judged d.inRange).halted.trans d.unhalted,
    phase_of_armed (setup.rest ▸ d.started.1) (a.timer d.inRange).2⟩

theorem CycleDue.deferred (d : CycleDue h s) (hw : Holds (s.inst h) ws) (high : s.nextLevel (s.inst h).pinA = true) :
    CycleDeferred h s (timerArm (polled s h) h) ws := by
  have inst := deferral_inst d.inRange
  refine ⟨(deferral_outside s h).halted.trans d.unhalted, ?_, high, ?_, deferral_reports d.inRange⟩
  · rw [inst]
    exact phase_of_armed d.started.1 rfl
  · rw [inst]
    exact hw.of_buffer rfl rfl

theorem CycleDue.sampled_room (d : CycleDue h s) (low : s.nextLevel (s.inst h).pinA = false)
    (hv : cycleVerdict s h = .sample) (hw : Holds (s.inst h) ws) (room : (s.inst h).used + 4 ≤ capBytes s.params)
    (a : CycleEnd h (judged s h) t
      (writeBytes (s.inst h).buf (s.inst h).used (encodeRec (decodeCount ((measured s h).inst h).acc)))
      ((s.inst h).used + 4) (s.inst h).err (delivery ((judged s h).inst h))) : CycleSampled h s t ws := by
  obtain ⟨running, armed⟩ := d.armed_of_end a
  have acc := a.acc d.inRange
  refine ⟨running, armed, low, (a.verdict d.inRange).trans hv, decodeCount_isCount _, .inl ⟨room, ?_, ?_⟩⟩
  · rw [acc]
    exact holds_append hw (by rw [a.inst]) (by rw [a.inst])
  · rw [a.reports d.inRange, reportsOf_delivery, List.append_nil]

theorem CycleDue.sampled_full (d : CycleDue h s) (low : s.nextLevel (s.inst h).pinA = false)
    (hv : cycleVerdict s h = .sample) (full : (s.inst h).used = capBytes s.params)
    (a : CycleEnd h (judged s h) t
      (writeBytes (s.inst h).buf 0 (encodeRec (decodeCount ((measured s h).inst h).acc))) 4 (s.inst h).err
      (delivery ((judged s h).inst h) ++ [flushReport s h (recordBytes ws)])) : CycleSampled h s t ws := by
  obtain ⟨running, armed⟩ := d.armed_of_end a
  have acc := a.acc d.inRange
  refine ⟨running, armed, low, (a.verdict d.inRange).trans hv, decodeCount_isCount _,
    .inr ⟨full, ?_, reportFrame s h (recordBytes ws), ?_, rfl, d.inst.errZero, rfl⟩⟩
  · rw [acc]
    exact holds_single (i := s.inst h) (by rw [a.inst]) (by rw [a.inst])
  · rw [a.reports d.inRange, reportsOf_append, reportsOf_delivery]
    rfl

theorem CycleDue.failed_room {c : ErrorCode} (d : CycleDue h s) (low : s.nextLevel (s.inst h).pinA = false)
    (hv : cycleVerdict s h = .recoverable c) (room : (s.inst h).used + 4 ≤ capBytes s.params) {m : Memory}
    (a : CycleEnd h (judged s h) t m 0 0
      [errorReport h c ((s.inst h).used + 4) (recordBytes (ws ++ [sentinel]))]) : CycleFailed h s t ws := by
  obtain ⟨running, armed⟩ := d.armed_of_end a
  refine ⟨running, armed, low, holds_nil (by rw [a.inst]), c, [], errorFrame h c ((s.inst h).used + 4) ws,
    (a.verdict d.inRange).trans hv, ?_, rfl, errorByte_toNat c, .inl ⟨room, rfl, rfl⟩⟩
  rw [a.reports d.inRange, List.append_nil]
  rfl

theorem CycleDue.failed_full {c : ErrorCode} (d : CycleDue h s) (low : s.nextLevel (s.inst h).pinA = false)
    (hv : cycleVerdict s h = .recoverable c) (full : (s.inst h).used = capBytes s.params) {m : Memory}
    (a : CycleEnd h (judged s h) t m 0 0
      [flushReport s h (recordBytes ws), errorReport h c 4 (recordBytes [sentinel])]) : CycleFailed h s t ws := by
  obtain ⟨running, armed⟩ := d.armed_of_end a
  refine ⟨running, armed, low, holds_nil (by rw [a.inst]), c, [reportFrame s h (recordBytes ws)], errorFrame h c 4 [],
    (a.verdict d.inRange).trans hv, ?_, rfl, errorByte_toNat c, .inr ⟨full, rfl, _, rfl, rfl, d.inst.errZero, rfl⟩⟩
  rw [a.reports d.inRange, List.append_assoc]
  rfl

theorem CycleDue.halted {cause : FatalCause} (d : CycleDue h s) (low : s.nextLevel (s.inst h).pinA = false)
    (hv : cycleVerdict s h = .fatal cause) (hw : Holds (s.inst h) ws) :
    CycleHalted h s ((judged s h).raiseFatal h cause) ws := by
  have setup := judged_setup d.inRange
  have servicing : ((judged s h).inst h).phase = .servicing :=
    phase_of_servicing (by rw [setup.rest]; exact d.started.1) ((judged_timer d.inRange).2.trans d.started.2)
  have verdict : classifyVerdict s.params ((judged s h).inst h) = .fatal cause := (judged_verdict d.inRange).trans hv
  rw [CycleHalted, State.raiseFatal_inst, State.raiseFatal_trace]
  exact ⟨rfl, servicing, low, judged_holds d.inRange hw, judged_reports d.inRange, rfl, cause, verdict,
    causeByte_toNat cause⟩

/-- A cycle that is due completes in one of the four ways. -/
theorem CycleDue.outcomes (d : CycleDue h s) (hw : Holds (s.inst h) ws) :
    ∃ t, service s h = .ok t ∧ (t.inst h).pending = false ∧ (∀ k, k ≠ h → t.inst k = s.inst k) ∧
      (CycleDeferred h s t ws ∨ CycleSampled h s t ws ∨ CycleFailed h s t ws ∨ CycleHalted h s t ws) := by
  have hh := d.inRange
  cases level : s.nextLevel (s.inst h).pinA with
  | true =>
    have idle : ((timerArm (polled s h) h).inst h).pending = false := by rw [deferral_inst hh]
    exact ⟨_, service_of_high hh level, idle, (deferral_outside s h).others, .inl (d.deferred hw level)⟩
  | false =>
    cases verdict : cycleVerdict s h with
    | sample =>
      rcases d.space hw with room | full
      · obtain ⟨t, ht, a⟩ := service_sample_room hh level verdict room
        exact ⟨t, ht, (a.timer hh).1, (a.outside_of_judged hh).others, .inr (.inl (d.sampled_room level verdict hw room a))⟩
      · obtain ⟨t, ht, a⟩ := service_sample_full hh level verdict full hw
        exact ⟨t, ht, (a.timer hh).1, (a.outside_of_judged hh).others, .inr (.inl (d.sampled_full level verdict full a))⟩
    | recoverable c =>
      rcases d.space hw with room | full
      · obtain ⟨t, ht, a⟩ := service_error_room hh level verdict room hw
        exact ⟨t, ht, (a.timer hh).1, (a.outside_of_judged hh).others,
          .inr (.inr (.inl (d.failed_room level verdict room a)))⟩
      · obtain ⟨t, ht, a⟩ := service_error_full hh level verdict full hw
        exact ⟨t, ht, (a.timer hh).1, (a.outside_of_judged hh).others,
          .inr (.inr (.inl (d.failed_full level verdict full a)))⟩
    | fatal cause =>
      exact ⟨_, service_fatal hh level verdict, (judged_timer hh).1, (judged_outside hh).others,
        .inr (.inr (.inr (d.halted level verdict hw)))⟩

/-- Settles O51: in a sound state the cycle of a pending instance is due. -/
theorem serviceFourOutcomes : Obligations.ServiceFourOutcomes := by
  unfold Obligations.ServiceFourOutcomes
  intro s h ws a hr pending hw room full
  have inst : InstOk s.params false (s.inst h) := hr.1 ▸ a.insts h hr.2
  have configured := inst.configured_of_started ((inst.phase rfl).of_pending pending).1
  have due : CycleDue h s := ⟨a.beside h, hr.1, hr.2, inst, pending, a.clockLow h hr.2 configured⟩
  obtain ⟨t, ht, idle, others, outcome⟩ := due.outcomes hw
  exact ⟨t, exec_service_of_ok hr pending ht, idle, others, outcome⟩

/-! ### The phases (R245) -/

theorem phase_congr {i j : Inst} (rest : j.rest = i.rest) (armed : j.tmrArmed = i.tmrArmed) : j.phase = i.phase := by
  rw [Inst.phase, rest, armed, Inst.phase]

theorem leavePass_inst (s : State) (h k : Handle) : (leavePass s h).inst k = s.inst k := by
  unfold leavePass
  split
  · rfl
  · rfl

/-- A visit takes a pending instance from servicing to armed, or leaves it where it is in a block that halts. -/
theorem CycleDue.phases (d : CycleDue h s) :
    ∃ t, service s h = .ok t ∧ (∀ k, k ≠ h → t.inst k = s.inst k) ∧ (s.inst h).phase = .servicing ∧
      ((t.halted = false ∧ (t.inst h).phase = .armed) ∨ (t.inst h).phase = .servicing) := by
  obtain ⟨ws, hw, _⟩ := d.inst.records
  obtain ⟨t, ht, _, others, outcome⟩ := d.outcomes hw
  refine ⟨t, ht, others, phase_of_servicing d.started.1 d.started.2, ?_⟩
  rcases outcome with ⟨running, armed, _⟩ | ⟨running, armed, _⟩ | ⟨running, armed, _⟩ | ⟨_, servicing, _⟩
  · exact .inl ⟨running, armed⟩
  · exact .inl ⟨running, armed⟩
  · exact .inl ⟨running, armed⟩
  · exact .inr servicing

theorem startStop_phase (hh : h.toNat < s.nInst) (n : Tick) :
    ((startStop s h n).inst h).phase = if n = 0 then .stopped else .armed := by
  split
  case isTrue stop =>
    subst stop
    exact phase_of_rest_zero (by rw [startStop_inst_zero hh])
  case isFalse start =>
    rw [startStop_inst_of_ne hh start]
    exact phase_of_armed start rfl

/-- Settles O55: of the effects of a step only a timer, a visit and START_STOP write REST or TMR_ARMED of a configured instance. -/
theorem phaseTransitions : Obligations.PhaseTransitions := by
  unfold Obligations.PhaseTransitions
  intro s t h a ht notReset hh configured changed
  have unchanged : (t.inst h).phase ≠ (s.inst h).phase → t.inst h = s.inst h → False :=
    fun differs same => differs (congrArg Inst.phase same)
  cases stepEffect_of_step ht with
  | powerOn agent => exact absurd agent notReset
  | pass same => exact (unchanged changed (same.inst h)).elim
  | configureHalt same => exact (unchanged changed (same.inst h)).elim
  | @configure u k st po g pinA pinB same _ _ _ unconfigured =>
    have other : h ≠ k := by
      rintro rfl
      rw [same.inst, configured] at unconfigured
      exact Bool.noConfusion unconfigured
    exact (unchanged changed (((configureWrites_outside u k st po g pinA pinB).others h other).trans (same.inst h))).elim
  | @attach u k c same _ _ inRange =>
    refine absurd ?_ changed
    rw [← same.inst h]
    by_cases own : h = k
    · subst own
      rw [State.modInst_inst_same inRange]
      exact phase_congr rfl rfl
    · rw [State.modInst_inst_other own]
  | @startStop u k n w ws same _ _ inRange _ agent port word =>
    by_cases own : h = k
    · subst own
      exact .inr (.inr ⟨agent, w, ws, n, port, word, startStop_phase inRange n⟩)
    · exact (unchanged changed (((startStop_outside u k n).others h own).trans (same.inst h))).elim
  | @statusQuery u k same => exact (unchanged changed ((statusQuery_inst u k h).trans (same.inst h))).elim
  | @timer u k same unhalted inRange agent _ armed =>
    by_cases own : h = k
    · subst own
      rw [same.inst] at armed
      have started := (((a.insts h hh).phase unhalted).of_armed armed).1
      have fired := timerFire_inst inRange
      rw [same.inst] at fired
      refine .inl ⟨phase_of_armed started armed, ?_, agent⟩
      rw [fired]
      exact phase_of_servicing started rfl
    · exact (unchanged changed (((timerFire_outside u k).others h own).trans (same.inst h))).elim
  | taskBegin same => exact (unchanged changed (same.inst h)).elim
  | @skip u k S same => exact (unchanged changed ((leavePass_inst u k h).trans (same.inst h))).elim
  | @visit u t' k S same unhalted inRange pass member pending agent cycle =>
    have due := (a.of_sameBlock same).cycleDue (same.halted.trans unhalted) inRange pass member pending
    obtain ⟨t', ht', others, servicing, ends⟩ := due.phases
    obtain rfl := Except.ok.inj (ht'.symm.trans cycle)
    have before : ∀ j, (leavePass u k).inst j = s.inst j := fun j => (leavePass_inst u k j).trans (same.inst j)
    by_cases own : h = k
    · subst own
      rw [before] at servicing
      rcases ends with ⟨running, armed⟩ | still
      · exact .inr (.inl ⟨servicing, armed, agent, running⟩)
      · exact absurd (still.trans servicing.symm) changed
    · exact (unchanged changed ((others h own).trans (before h))).elim
  | taskEnd same => exact (unchanged changed (same.inst h)).elim

end Sys2Proof.Machine
end

section
/-! The configuration after CONFIGURE (10_state.md R22, 20_memory.md R74): no operation but CONFIGURE writes it, whatever state the
block is in. -/

namespace Sys2Proof.Machine

variable {s t u : State} {h k : Handle} {e : Except Fault State} {f : State → State}

/-! ### What keeps the configuration of every instance -/

/-- No instance's configuration fields differ. -/
def KeepsConfig (s t : State) : Prop := ∀ k, SameConfig (s.inst k) (t.inst k)

theorem KeepsConfig.of_insts (same : ∀ k, t.inst k = s.inst k) : KeepsConfig s t := fun k => by
  rw [same]
  exact SameConfig.refl _

theorem KeepsConfig.refl (s : State) : KeepsConfig s s := .of_insts fun _ => rfl

theorem KeepsConfig.trans (a : KeepsConfig s t) (b : KeepsConfig t u) : KeepsConfig s u := fun k => by
  obtain ⟨configured, strat, policy, gainsel, pinA, pinB⟩ := a k
  obtain ⟨configured', strat', policy', gainsel', pinA', pinB'⟩ := b k
  exact ⟨configured'.trans configured, strat'.trans strat, policy'.trans policy, gainsel'.trans gainsel, pinA'.trans pinA,
    pinB'.trans pinB⟩

theorem KeepsConfig.of_outside (o : SameOutside h s t) (config : SameConfig (s.inst h) (t.inst h)) : KeepsConfig s t :=
  fun k => by
    by_cases own : k = h
    · rw [own]
      exact config
    · rw [o.others k own]
      exact SameConfig.refl _

/-- A write of other fields of an instance, whether the instance exists or not. -/
theorem KeepsConfig.modInst (s : State) (h : Handle) {f : Inst → Inst} (hf : ∀ i, SameConfig i (f i)) :
    KeepsConfig s (s.modInst h f) := fun k => by
  by_cases own : k = h
  · subst own
    by_cases inRange : k.toNat < s.nInst
    · rw [State.modInst_inst_same inRange]
      exact hf _
    · have beyond : s.insts.length ≤ k.toNat := Nat.le_of_not_lt inRange
      have same : s.modInst k f = s := by rw [State.modInst, List.modify_eq_self beyond]
      rw [same]
      exact SameConfig.refl _
  · rw [State.modInst_inst_other own]
    exact SameConfig.refl _

theorem KeepsConfig.of_map (he : e.map f = .ok t) (first : ∀ u, e = .ok u → KeepsConfig s u)
    (second : ∀ u, KeepsConfig u (f u)) : KeepsConfig s t := by
  cases e with
  | error _ => cases he
  | ok u =>
    obtain rfl := Except.ok.inj he
    exact (first u rfl).trans (second u)

theorem KeepsConfig.of_bind {f : State → Except Fault State} (he : e.bind f = .ok t)
    (first : ∀ u, e = .ok u → KeepsConfig s u) (second : ∀ u, f u = .ok t → KeepsConfig u t) : KeepsConfig s t := by
  cases e with
  | error _ => cases he
  | ok u => exact (first u rfl).trans (second u he)

/-! ### The buffer operations and the cycle -/

theorem emitReport_config (ht : emitReport s h = .ok t) : KeepsConfig s t := by
  unfold emitReport at ht
  split at ht
  case isTrue => cases ht
  case isFalse =>
    cases read : s.memRead h 0 (s.inst h).used with
    | error _ =>
      rw [read] at ht
      cases ht
    | ok data =>
      rw [read] at ht
      obtain rfl := Except.ok.inj ht
      exact .of_insts fun _ => rfl

theorem bufFlush_config (ht : bufFlush s h = .ok t) : KeepsConfig s t :=
  .of_map ht (fun _ => emitReport_config) fun u => .modInst u h fun i => SameConfig.refl i

theorem storeRec_config {w : Word32} (ht : storeRec s h w = .ok t) : KeepsConfig s t := by
  refine .of_map ht (fun u hu => ?_) fun u => .modInst u h fun i => SameConfig.refl i
  unfold State.memWrite at hu
  split at hu
  case isTrue =>
    obtain rfl := Except.ok.inj hu
    exact .modInst s h fun i => SameConfig.refl i
  case isFalse => cases hu

theorem bufAppend_config {w : Word32} (ht : bufAppend s h w = .ok t) : KeepsConfig s t := by
  unfold bufAppend at ht
  split at ht
  · exact .of_bind ht (fun _ => bufFlush_config) fun _ => storeRec_config
  · exact storeRec_config ht

theorem emitError_config {c : ErrorCode} (ht : emitError s h c = .ok t) : KeepsConfig s t := by
  refine .of_bind ht (fun _ => bufAppend_config) fun u hu => ?_
  refine .of_map hu (fun v hv => ?_) fun v => .modInst v h fun i => SameConfig.refl i
  have written : KeepsConfig u (u.modInst h fun i => { i with err := errorByte c }) :=
    .modInst u h fun i => SameConfig.refl i
  exact written.trans (bufFlush_config hv)

theorem timerArm_config (s : State) (h : Handle) : KeepsConfig s (timerArm s h) :=
  KeepsConfig.modInst s.irqMask.now h fun i => SameConfig.refl i

theorem timerFire_config (s : State) (h : Handle) : KeepsConfig s (timerFire s h) :=
  KeepsConfig.modInst s h fun i => SameConfig.refl i

theorem withConsumer_config (s : State) (h : Handle) (c : BitVec 8) :
    KeepsConfig s (s.modInst h (withConsumer c)) :=
  KeepsConfig.modInst s h fun i => SameConfig.refl i

theorem actOn_config {v : Verdict} (ht : actOn s h v = .ok t) : KeepsConfig s t := by
  cases v with
  | fatal cause =>
    obtain rfl := Except.ok.inj ht
    exact .of_insts fun _ => rfl
  | recoverable c => exact .of_map ht (fun _ => emitError_config) fun u => timerArm_config u h
  | sample =>
    refine .of_map ht (fun u hu => ?_) fun u => timerArm_config u h
    exact (KeepsConfig.of_insts fun k => fanoutDeliver_inst s h k).trans (bufAppend_config hu)

theorem service_config (hh : h.toNat < s.nInst) (ht : service s h = .ok t) : KeepsConfig s t := by
  cases level : s.nextLevel (s.inst h).pinA with
  | true =>
    rw [service_of_high hh level] at ht
    obtain rfl := Except.ok.inj ht
    refine .of_outside (deferral_outside s h) ?_
    rw [deferral_inst hh]
    exact SameConfig.refl _
  | false =>
    rw [service_of_low hh level] at ht
    exact (KeepsConfig.of_outside (judged_outside hh) (judged_setup hh).config).trans (actOn_config ht)

/-! ### The step -/

theorem SameBlock.keepsConfig (a : SameBlock s t) : KeepsConfig s t := .of_insts a.inst

/-- Settles O54: CONFIGURE alone writes the fields, and it is taken only for an instance that is not configured. -/
theorem configurationImmutable : Obligations.ConfigurationImmutable := by
  unfold Obligations.ConfigurationImmutable
  intro s t h ht notReset configured
  cases stepEffect_of_step ht with
  | powerOn agent => exact absurd agent notReset
  | pass same => exact same.keepsConfig h
  | configureHalt same => exact same.keepsConfig h
  | @configure u k st po g pinA pinB same _ _ _ unconfigured =>
    have other : h ≠ k := by
      rintro rfl
      rw [same.inst, configured] at unconfigured
      exact Bool.noConfusion unconfigured
    rw [(configureWrites_outside u k st po g pinA pinB).others h other]
    exact same.keepsConfig h
  | @attach u k c same => exact (same.keepsConfig.trans (withConsumer_config u k c)) h
  | @startStop u k n _ _ same _ _ inRange =>
    exact (same.keepsConfig.trans (.of_outside (startStop_outside u k n) (startStop_config inRange n))) h
  | @statusQuery u k same => exact (same.keepsConfig.trans (.of_insts fun j => statusQuery_inst u k j)) h
  | @timer u k same => exact (same.keepsConfig.trans (timerFire_config u k)) h
  | taskBegin same => exact same.keepsConfig h
  | @skip u k _ same => exact (same.keepsConfig.trans (.of_insts fun j => leavePass_inst u k j)) h
  | @visit u _ k S same _ inRange pass _ _ _ cycle =>
    have left : KeepsConfig s (leavePass u k) := same.keepsConfig.trans (.of_insts fun j => leavePass_inst u k j)
    have inRange' : k.toNat < (leavePass u k).nInst := by
      rw [leavePass_of_pass pass]
      exact inRange
    exact (left.trans (service_config inRange' cycle)) h
  | taskEnd same => exact same.keepsConfig h

end Sys2Proof.Machine
end

section
/-! TIMER_FIRE of another instance and SERVICE commute (20_memory.md R71): the timer's three writes pass every part of the cycle. -/

namespace Sys2Proof.Machine

variable {h k : Handle}

/-! ### The primitives -/

theorem timerFire_inst_other (hk : k ≠ h) (s : State) : (timerFire s k).inst h = s.inst h := State.modInst_inst_other hk.symm

theorem timerFire_modInst (hk : k ≠ h) (s : State) (f : Inst → Inst) :
    (timerFire s k).modInst h f = timerFire (s.modInst h f) k :=
  congrArg (fun t : State => { t with wake := true }) (State.modInst_comm s hk.symm _ f)

theorem timerFire_params (s : State) (k : Handle) : (timerFire s k).params = s.params := rfl

theorem timerFire_nextTick (s : State) (k : Handle) : (timerFire s k).nextTick = s.nextTick := rfl

theorem timerFire_nextLevel (s : State) (k : Handle) (p : PinId) : (timerFire s k).nextLevel p = s.nextLevel p := rfl

theorem timerFire_nextSpi (s : State) (k : Handle) (b : PinId) : (timerFire s k).nextSpi b = s.nextSpi b := rfl

theorem timerFire_log (s : State) (k : Handle) (e : Event) : (timerFire s k).log e = timerFire (s.log e) k := rfl

theorem timerFire_now (s : State) (k : Handle) : (timerFire s k).now = timerFire s.now k := rfl

theorem timerFire_pinRead (s : State) (k : Handle) (p : PinId) : (timerFire s k).pinRead p = timerFire (s.pinRead p) k := rfl

theorem timerFire_pinWrite (s : State) (k : Handle) (p : PinId) (b : Bool) :
    (timerFire s k).pinWrite p b = timerFire (s.pinWrite p b) k := rfl

theorem timerFire_waitAtLeast (s : State) (k : Handle) (ns : Nat) :
    (timerFire s k).waitAtLeast ns = timerFire (s.waitAtLeast ns) k := rfl

theorem timerFire_spiXfer3 (s : State) (k : Handle) (b : PinId) :
    (timerFire s k).spiXfer3 b = timerFire (s.spiXfer3 b) k := rfl

theorem timerFire_irqMask (s : State) (k : Handle) : (timerFire s k).irqMask = timerFire s.irqMask k := rfl

theorem timerFire_irqUnmask (s : State) (k : Handle) : (timerFire s k).irqUnmask = timerFire s.irqUnmask k := rfl

/-! ### The parts of a cycle that make no stop -/

theorem clearPending_timerFire (hk : k ≠ h) (s : State) :
    clearPending (timerFire s k) h = timerFire (clearPending s h) k := by
  simp only [clearPending, timerFire_irqMask, timerFire_modInst hk, timerFire_irqUnmask]

theorem readyPoll_timerFire (hk : k ≠ h) (s : State) : readyPoll (timerFire s k) h = timerFire (readyPoll s h) k := by
  simp only [readyPoll, timerFire_inst_other hk, timerFire_pinRead]

theorem readyNow_timerFire (hk : k ≠ h) (s : State) : readyNow (timerFire s k) h = readyNow s h := by
  simp only [readyNow, timerFire_inst_other hk, timerFire_nextLevel]

theorem captureStart_timerFire (hk : k ≠ h) (s : State) :
    captureStart (timerFire s k) h = timerFire (captureStart s h) k := by
  simp only [captureStart, timerFire_now, timerFire_nextTick, timerFire_modInst hk]

theorem captureDuration_timerFire (hk : k ≠ h) (s : State) :
    captureDuration (timerFire s k) h = timerFire (captureDuration s h) k := by
  simp only [captureDuration, timerFire_now, timerFire_nextTick, timerFire_modInst hk]

theorem timerArm_timerFire (hk : k ≠ h) (s : State) : timerArm (timerFire s k) h = timerFire (timerArm s h) k := by
  simp only [timerArm, timerFire_irqMask, timerFire_now, timerFire_nextTick, timerFire_modInst hk, timerFire_irqUnmask]

theorem xferReg_timerFire (hk : k ≠ h) (s : State) : xferReg (timerFire s k) h = timerFire (xferReg s h) k := by
  simp only [xferReg, timerFire_irqMask, captureStart_timerFire hk, timerFire_irqUnmask, timerFire_inst_other hk,
    timerFire_nextSpi, timerFire_spiXfer3, captureDuration_timerFire hk, timerFire_modInst hk]

theorem pulseHigh_timerFire (hk : k ≠ h) (s : State) (first : Bool) :
    pulseHigh (timerFire s k) h first = timerFire (pulseHigh s h first) k := by
  cases first with
  | true =>
    simp only [pulseHigh, if_true, timerFire_irqMask, captureStart_timerFire hk, timerFire_inst_other hk, timerFire_pinWrite,
      timerFire_params, timerFire_waitAtLeast]
  | false =>
    simp only [pulseHigh, Bool.false_eq_true, if_false, timerFire_irqMask, timerFire_inst_other hk, timerFire_pinWrite,
      timerFire_params, timerFire_waitAtLeast]

theorem pulseLow_timerFire (hk : k ≠ h) (s : State) : pulseLow (timerFire s k) h = timerFire (pulseLow s h) k := by
  simp only [pulseLow, timerFire_inst_other hk, timerFire_pinWrite, timerFire_params, timerFire_waitAtLeast,
    timerFire_irqUnmask]

theorem bbPulse_timerFire (hk : k ≠ h) (s : State) (sample first : Bool) :
    bbPulse (timerFire s k) h sample first = timerFire (bbPulse s h sample first) k := by
  cases sample with
  | true =>
    simp only [bbPulse, if_true, pulseHigh_timerFire hk, timerFire_inst_other hk, timerFire_pinRead, pulseLow_timerFire hk]
  | false => simp only [bbPulse, Bool.false_eq_true, if_false, pulseHigh_timerFire hk, pulseLow_timerFire hk]

theorem pulseBit_timerFire (hk : k ≠ h) (s : State) (sample first : Bool) :
    pulseBit (timerFire s k) h sample first = pulseBit s h sample first := by
  simp only [pulseBit, pulseHigh_timerFire hk, timerFire_inst_other hk, timerFire_nextLevel]

theorem dataTrain_timerFire (hk : k ≠ h) (s : State) (first : Bool) (n : Nat) :
    dataTrain (timerFire s k) h first n = timerFire (dataTrain s h first n) k := by
  induction n generalizing s first with
  | zero => rfl
  | succ n ih => rw [dataTrain, bbPulse_timerFire hk, ih, dataTrain]

theorem dataTrainAcc_timerFire (hk : k ≠ h) (s : State) (first : Bool) (acc : Raw24) (n : Nat) :
    dataTrainAcc (timerFire s k) h first acc n = dataTrainAcc s h first acc n := by
  induction n generalizing s first acc with
  | zero => rfl
  | succ n ih => rw [dataTrainAcc, bbPulse_timerFire hk, pulseBit_timerFire hk, ih, dataTrainAcc]

theorem selectorTrain_timerFire (hk : k ≠ h) (s : State) (n : Nat) :
    selectorTrain (timerFire s k) h n = timerFire (selectorTrain s h n) k := by
  induction n generalizing s with
  | zero => rfl
  | succ n ih => rw [selectorTrain, bbPulse_timerFire hk, ih, selectorTrain]

theorem xferBb_timerFire (hk : k ≠ h) (s : State) : xferBb (timerFire s k) h = timerFire (xferBb s h) k := by
  simp only [xferBb, dataTrain_timerFire hk, timerFire_inst_other hk, selectorTrain_timerFire hk, captureDuration_timerFire hk,
    readyNow_timerFire hk, dataTrainAcc_timerFire hk, readyPoll_timerFire hk, timerFire_modInst hk]

theorem transfer_timerFire (hk : k ≠ h) (s : State) : transfer (timerFire s k) h = timerFire (transfer s h) k := by
  unfold transfer
  rw [timerFire_inst_other hk]
  cases (s.inst h).strat with
  | register => exact xferReg_timerFire hk s
  | bitbang => exact xferBb_timerFire hk s

theorem classify_timerFire (hk : k ≠ h) (s : State) : classify (timerFire s k) h = timerFire (classify s h) k := by
  unfold classify
  rw [timerFire_inst_other hk, timerFire_params]
  split
  · exact timerFire_modInst hk s _
  · rfl

theorem fanoutDeliver_timerFire (hk : k ≠ h) (s : State) :
    fanoutDeliver (timerFire s k) h = timerFire (fanoutDeliver s h) k := by
  unfold fanoutDeliver
  rw [timerFire_inst_other hk]
  split
  · exact timerFire_log s k _
  · rfl

/-! ### The parts that can stop -/

theorem emitReport_timerFire (hk : k ≠ h) (s : State) :
    emitReport (timerFire s k) h = (emitReport s h).map fun t => timerFire t k := by
  have read : (timerFire s k).memRead h 0 (s.inst h).used = s.memRead h 0 (s.inst h).used := by
    simp only [State.memRead, timerFire_inst_other hk]
  have frame : ∀ data, reportFrame (timerFire s k) h data = reportFrame s h data := fun data => by
    simp only [reportFrame, timerFire_inst_other hk]
  unfold emitReport
  rw [timerFire_inst_other hk, read]
  split
  · rfl
  · cases s.memRead h 0 (s.inst h).used with
    | error f => rfl
    | ok data => exact congrArg (fun r => Except.ok ((timerFire s k).log (.report r))) (frame data)

theorem bufFlush_timerFire (hk : k ≠ h) (s : State) :
    bufFlush (timerFire s k) h = (bufFlush s h).map fun t => timerFire t k := by
  rw [bufFlush, bufFlush, emitReport_timerFire hk]
  cases emitReport s h with
  | error f => rfl
  | ok t => exact congrArg Except.ok (timerFire_modInst hk t _)

theorem memWrite_timerFire (hk : k ≠ h) (s : State) (a : Nat) (v : List Byte) :
    (timerFire s k).memWrite h a v = (s.memWrite h a v).map fun t => timerFire t k := by
  unfold State.memWrite
  rw [timerFire_params]
  split
  · exact congrArg Except.ok (timerFire_modInst hk s _)
  · rfl

theorem storeRec_timerFire (hk : k ≠ h) (s : State) (w : Word32) :
    storeRec (timerFire s k) h w = (storeRec s h w).map fun t => timerFire t k := by
  rw [storeRec, storeRec, timerFire_inst_other hk, memWrite_timerFire hk]
  cases s.memWrite h (s.inst h).used (encodeRec w) with
  | error f => rfl
  | ok t => exact congrArg Except.ok (timerFire_modInst hk t _)

theorem bufAppend_timerFire (hk : k ≠ h) (s : State) (w : Word32) :
    bufAppend (timerFire s k) h w = (bufAppend s h w).map fun t => timerFire t k := by
  unfold bufAppend
  rw [timerFire_inst_other hk, timerFire_params]
  split
  · rw [bufFlush_timerFire hk]
    cases bufFlush s h with
    | error f => rfl
    | ok t => exact storeRec_timerFire hk t w
  · exact storeRec_timerFire hk s w

theorem emitError_timerFire (hk : k ≠ h) (s : State) (c : ErrorCode) :
    emitError (timerFire s k) h c = (emitError s h c).map fun t => timerFire t k := by
  rw [emitError, emitError, bufAppend_timerFire hk]
  cases bufAppend s h sentinel with
  | error f => rfl
  | ok t =>
    simp only [Except.map, Except.bind, timerFire_modInst hk, bufFlush_timerFire hk]
    cases bufFlush (t.modInst h fun i => { i with err := errorByte c }) h with
    | error f => rfl
    | ok u => exact congrArg Except.ok (timerFire_modInst hk u _)

theorem actOn_timerFire (hk : k ≠ h) (s : State) (v : Verdict) :
    actOn (timerFire s k) h v = (actOn s h v).map fun t => timerFire t k := by
  cases v with
  | fatal cause => rfl
  | recoverable c =>
    rw [actOn, actOn, emitError_timerFire hk]
    cases emitError s h c with
    | error f => rfl
    | ok t => exact congrArg Except.ok (timerArm_timerFire hk t)
  | sample =>
    rw [actOn, actOn, fanoutDeliver_timerFire hk, timerFire_inst_other hk, bufAppend_timerFire hk]
    cases bufAppend (fanoutDeliver s h) h (s.inst h).count with
    | error f => rfl
    | ok t => exact congrArg Except.ok (timerArm_timerFire hk t)

/-- Settles O56. -/
theorem timerFireCommutesWithService : Obligations.TimerFireCommutesWithService := by
  unfold Obligations.TimerFireCommutesWithService
  intro s h k hk
  simp only [service, clearPending_timerFire hk, readyPoll_timerFire hk, readyNow_timerFire hk, transfer_timerFire hk,
    classify_timerFire hk, timerFire_inst_other hk, timerFire_params, timerArm_timerFire hk]
  split
  · exact actOn_timerFire hk _ _
  · rfl

end Sys2Proof.Machine
end

section
/-! The frames as bits (30_encoding.md R100 to R102). -/

namespace Sys2Proof.Machine

theorem low_byte (n : BitVec 16) : n.extractLsb' 0 8 = BitVec.ofNat 8 (n.toNat % 256) := by
  refine BitVec.eq_of_toNat_eq ?_
  rw [BitVec.extractLsb'_toNat, BitVec.toNat_ofNat, Nat.shiftRight_zero, Nat.mod_mod]

theorem high_byte (n : BitVec 16) : n.extractLsb' 8 8 = BitVec.ofNat 8 (n.toNat / 256) := by
  refine BitVec.eq_of_toNat_eq ?_
  rw [BitVec.extractLsb'_toNat, BitVec.toNat_ofNat, Nat.shiftRight_eq_div_pow]

/-- Settles O57. -/
theorem frameLayouts : Obligations.FrameLayouts := by
  unfold Obligations.FrameLayouts
  refine ⟨fun h e n data => ?_, fun c n ts => ?_, fun h ts win p => ?_⟩
  · rw [← low_byte, ← high_byte]
    rfl
  · simp only [deliverBits, Laws.append_toNat]
    omega
  · simp only [statusBits, Laws.append_toNat]
    omega

end Sys2Proof.Machine
end

section
/-! Outside the operands of the rules: where the model stops (logs 11, 19, 20), and that six sub-operations run on an instance that
nothing has configured (logs 4, 11). -/

namespace Sys2Proof.Machine

variable {s : State} {h : Handle} {r : Result}

theorem within_false (r : Result) : within false r = .refused .outsideOperands := rfl

theorem whenEnabled_false (r : Result) : whenEnabled false r = .refused .notEnabled := rfl

theorem emitReport_below (below : (s.inst h).used < 4) : emitReport s h = .error .flushBelowRecord := if_pos below

theorem bufFlush_below (below : (s.inst h).used < 4) : bufFlush s h = .error .flushBelowRecord := by
  rw [bufFlush, emitReport_below below]
  rfl

theorem exec_timerArm (hr : Ready s h) :
    exec (.timerArm h) s = within ((s.inst h).rest ≠ 0) (.next (timerArm s h)) := onInst_of hr _

theorem exec_service (hr : Ready s h) :
    exec (.service h) s = within (s.inst h).pending (ofExcept (service s h)) := onInst_of hr _

theorem exec_xferReg (hr : Ready s h) :
    exec (.xferReg h) s = within ((s.inst h).strat = .register) (.next (xferReg s h)) := onInst_of hr _

theorem exec_bufFlush (hr : Ready s h) : exec (.bufFlush h) s = ofExcept (bufFlush s h) := onInst_of hr _

theorem exec_timerFire (hr : Ready s h) :
    exec (.timerFire h) s = whenEnabled (timerFireEnabled s h s.nextTick) (.next (timerFire s.useTick h)) := onInst_of hr _

theorem exec_taskVisit_of_disabled (hr : Ready s h) (he : taskVisitEnabled s h = false) :
    exec (.taskVisit h) s = .refused .notEnabled := by
  have guards : exec (.taskVisit h) s = whenEnabled (taskVisitEnabled s h) _ := onInst_of hr _
  rw [guards, he, whenEnabled_false]

theorem exec_taskBegin (hs : s.halted = false) :
    exec .taskBegin s = whenEnabled (taskBeginEnabled s) (.next (taskBegin s)) := running_of hs _

theorem exec_taskEnd (hs : s.halted = false) :
    exec .taskEnd s = whenEnabled (taskEndEnabled s) (.next { s with task := .idle }) := running_of hs _

/-- Settles O58: each clause negates one guard. -/
theorem operandStops : Obligations.OperandStops := by
  unfold Obligations.OperandStops
  intro s h hr
  refine ⟨fun stopped => ?_, fun idle => ?_, fun bitbang => ?_, fun outside => ?_, fun below => ?_, fun below code => ?_,
    fun disabled => ?_, fun away => ?_, fun busy => ?_, fun disabled => ?_, fun room clear => ?_⟩
  · rw [exec_timerArm hr, decide_eq_false (not_not_intro stopped), within_false]
  · rw [exec_service hr, idle, within_false]
  · rw [exec_xferReg hr, decide_eq_false (by rw [bitbang]; exact Strategy.noConfusion), within_false]
  · have illegal : (decide ((s.inst h).strat = .bitbang) && selectorLegal (s.inst h).gainsel) = false := by
      rw [Bool.eq_false_iff, ne_eq, Bool.and_eq_true, decide_eq_true_iff, selectorLegal_iff]
      rintro ⟨bitbang, low, high⟩
      rcases outside with register | zero | above
      · rw [register] at bitbang
        cases bitbang
      · omega
      · omega
    rw [exec_xferBb hr, illegal, within_false]
  · rw [exec_bufFlush hr, bufFlush_below below, ofExcept_error]
  · rw [exec_sampleReport hr, reportDue_iff.2 (.inr code), whenEnabled_true, emitReport_below below, ofExcept_error]
  · have off : timerFireEnabled s h s.nextTick = false := by
      rw [Bool.eq_false_iff, ne_eq, timerFireEnabled_iff]
      rintro ⟨_, unmasked, configured, armed, due⟩
      rcases disabled with masked | unconfigured | unarmed | early
      · exact Bool.noConfusion (unmasked.symm.trans masked)
      · exact Bool.noConfusion (configured.symm.trans unconfigured)
      · exact Bool.noConfusion (armed.symm.trans unarmed)
      · omega
    rw [exec_timerFire hr, off, whenEnabled_false]
  · refine exec_taskVisit_of_disabled hr ?_
    rw [Bool.eq_false_iff, ne_eq, taskVisitEnabled_iff]
    rintro ⟨_, S, pass, member⟩
    exact away S pass member
  · have off : taskEndEnabled s = false := by
      rw [Bool.eq_false_iff, ne_eq, taskEndEnabled_iff]
      exact fun ⟨_, done⟩ => busy done
    rw [exec_taskEnd hr.1, off, whenEnabled_false]
  · have off : taskBeginEnabled s = false := by
      rw [Bool.eq_false_iff, ne_eq, taskBeginEnabled_iff]
      rintro ⟨_, idle, woken⟩
      rcases disabled with busy | asleep
      · exact busy idle
      · exact Bool.noConfusion (woken.symm.trans asleep)
    rw [exec_taskBegin hr.1, off, whenEnabled_false]
  · have off : reportDue s.params (s.inst h) = false := by
      rw [Bool.eq_false_iff, ne_eq, reportDue_iff]
      rintro (full | code)
      · omega
      · exact code clear
    rw [exec_sampleReport hr, off, whenEnabled_false]

/-- Settles O59: CONFIGURED plays no part in the results of the six. -/
theorem unconfiguredInstanceRuns : Obligations.UnconfiguredInstanceRuns := by
  unfold Obligations.UnconfiguredInstanceRuns
  intro s h hr _
  exact ⟨exec_readyPoll_result hr, exec_xferReg_result hr, exec_xferBb_result hr,
    fun sample first => exec_bbPulse_result hr sample first, exec_tooLong_result hr, exec_classify_result hr⟩

end Sys2Proof.Machine
end
